-- ==== Sys2Proof/Word.lean ====
section
/-!
DEFINITION. The bit-vector types of DMX and the four-word group that both `S` and `IV` are
(00_scope.md R5, R7, R11). Their arithmetic is in Machine/Operands.lean.
-/
namespace Sys2Proof

/-- A 32-bit word: every state word, block word and rotator operand (R5 `W` = 32, R90). -/
abbrev Word := BitVec 32

/-- A byte (R11). -/
abbrev Byte := BitVec 8

/-- A rotate amount: the 5-bit field `n` of ROTL, 0 to 31 (R7 `ROT_N_BITS`, R66). -/
abbrev RotAmount := BitVec 5

/-- A blocks-owed count: `CNT` is 29 bits (R7 `CNT_BITS`, R23). -/
abbrev BlockCount := BitVec 29

/-- A command word `CW[71:0]` (R60). -/
abbrev CommandWord := BitVec 72

/-- A response word `RW[135:0]` (R61). -/
abbrev ResponseWord := BitVec 136

/-- Four 32-bit words, word 0 first: the state words `S[0..3]` (R21) and the configuration
`IV[0..3]` (R26). -/
structure Quad where
  w0 : Word
  w1 : Word
  w2 : Word
  w3 : Word
deriving DecidableEq, Repr, Inhabited

end Sys2Proof
end

