-- ==== Sys2Proof/Syntax.lean ====
section
/-!
DEFINITION. The seven commands of DMX-1, one constructor per row of spec/opcode_table.json
(30_encoding.md R62). Operand types have exactly the widths of the encoded fields (R64 to R66), so a
length of 2^32 or more and a rotation by 32 or more cannot be written (93_implementation_defined.md
U5, U6).
-/
namespace Sys2Proof

/-- A decoded command of DMX-1. -/
inductive Instr where
  /-- START: begin a message of `len` bytes (41_mixer.md R101, format L R64). -/
  | start (len : Word)
  /-- ABSORB: one round over the block whose little-endian words are `v0`, `v1` (R102, format B R65). -/
  | absorb (v0 v1 : Word)
  /-- FINAL: finish the message and return the digest (R103, format N R63). -/
  | final
  /-- RDDIG: return the held digest again (R104, format N). -/
  | rddig
  /-- RDSTAT: read the status view (42_control.md R121, format N). -/
  | rdstat
  /-- ROTL: rotate `value` left by `n` (40_bitcodec.md R95, format R R66). -/
  | rotl (value : Word) (n : RotAmount)
  /-- RESET: software reset (42_control.md R120, format N). -/
  | reset
deriving DecidableEq, Repr

/-- RDSTAT and ROTL: the commands that write no state and may stand anywhere in a message
(70_reset_and_hazards.md R158). -/
def Instr.isFree : Instr → Bool
  | .start _ => false
  | .absorb _ _ => false
  | .final => false
  | .rddig => false
  | .rdstat => true
  | .rotl _ _ => true
  | .reset => false

end Sys2Proof
end

