-- ==== Sys2Proof/WellFormed.lean ====
section
/-!
DEFINITION. Which command words are well formed (30_encoding.md R68), read from the opcode table's
masks and patterns and not from the decoder, so that the two can be proved to agree.

Every term of `Instr` is well formed: its operands have the widths of their fields, and the fixed and
reserved bits are not operands. What can be ill formed is a command WORD, and that is what is
checked here.
-/
namespace Sys2Proof

/-- One row of the opcode table: a word `w` selects the row when `w &&& mask = pattern`. -/
structure OpcodeRow where
  mnemonic : String
  mask : CommandWord
  pattern : CommandWord
deriving DecidableEq, Repr

/-- `w` selects the row: it has the row's opcode and zeros in every reserved bit. -/
def OpcodeRow.accepts (r : OpcodeRow) (w : CommandWord) : Bool :=
  (w &&& r.mask) == r.pattern

/-- The opcode table of DMX-1, `match` and `mask` as spec/opcode_table.json gives them (R62). -/
def opcodeTable : List OpcodeRow :=
  [ ⟨"START", 0xFFFFFFFFFF00000000#72, 0x010000000000000000#72⟩,
    ⟨"ABSORB", 0xFF0000000000000000#72, 0x020000000000000000#72⟩,
    ⟨"FINAL", 0xFFFFFFFFFFFFFFFFFF#72, 0x030000000000000000#72⟩,
    ⟨"RDDIG", 0xFFFFFFFFFFFFFFFFFF#72, 0x040000000000000000#72⟩,
    ⟨"RDSTAT", 0xFFFFFFFFFFFFFFFFFF#72, 0x050000000000000000#72⟩,
    ⟨"ROTL", 0xFFFFFFFFE000000000#72, 0x060000000000000000#72⟩,
    ⟨"RESET", 0xFFFFFFFFFFFFFFFFFF#72, 0x070000000000000000#72⟩ ]

/-- A command word is well formed if and only if it selects a row of the opcode table (R68). -/
def wordWellFormed (w : CommandWord) : Bool :=
  opcodeTable.any fun r => r.accepts w

/-- The mnemonic of a command, as the opcode table spells it. -/
def Instr.mnemonic : Instr → String
  | .start _ => "START"
  | .absorb _ _ => "ABSORB"
  | .final => "FINAL"
  | .rddig => "RDDIG"
  | .rdstat => "RDSTAT"
  | .rotl _ _ => "ROTL"
  | .reset => "RESET"

/-- Why a word is no command (R68): its opcode is not one of 0x01 to 0x07, or a bit its format
reserves is 1. -/
inductive IllegalWord where
  /-- `op` is 0x00 or 0x08 to 0xFF. -/
  | undefinedOpcode
  /-- `op` is defined and a reserved bit of its format is nonzero. -/
  | reservedBits
deriving DecidableEq, Repr

end Sys2Proof
end

