-- ==== Sys2Proof/Decode.lean ====
section
/-!
DEFINITION. Decoding of the 72-bit command word, total and rejecting by name (30_encoding.md R60,
R62 to R68), the encoder written from the same formats (R73), and the host's table query.
-/
namespace Sys2Proof

/-- `op = CW[71:64]` (R60). -/
def opField (w : CommandWord) : BitVec 8 := w.extractLsb' 64 8

/-- `arg[31:0]`: `len`, `v0` or `value` (R67). -/
def argLow (w : CommandWord) : Word := w.extractLsb' 0 32

/-- `arg[63:32]`: `v1`, or reserved in format L (R64, R65, R67). -/
def argHigh (w : CommandWord) : Word := w.extractLsb' 32 32

/-- `arg[36:32]`: the rotate amount of format R (R66, R67). -/
def rotField (w : CommandWord) : RotAmount := w.extractLsb' 32 5

/-- `arg[63:37]`: reserved in format R (R66). -/
def rotReserved (w : CommandWord) : BitVec 27 := w.extractLsb' 37 27

/-- A command if the reserved bits are zero, else the word is illegal (R68). -/
def unlessReserved (reservedZero : Bool) (i : Instr) : Except IllegalWord Instr :=
  if reservedZero then .ok i else .error .reservedBits

/-- Format N: all 64 bits of `arg` are reserved (R63). -/
def decodeN (w : CommandWord) (i : Instr) : Except IllegalWord Instr :=
  unlessReserved (argHigh w == 0 && argLow w == 0) i

/-- Decoding of a command word (R62, R68): one of the seven commands with its operands, or why the
word is illegal. `PHASE` has no part in it (R70). -/
def decode (w : CommandWord) : Except IllegalWord Instr :=
  if opField w = 0x01#8 then unlessReserved (argHigh w == 0) (.start (argLow w))
  else if opField w = 0x02#8 then .ok (.absorb (argLow w) (argHigh w))
  else if opField w = 0x03#8 then decodeN w .final
  else if opField w = 0x04#8 then decodeN w .rddig
  else if opField w = 0x05#8 then decodeN w .rdstat
  else if opField w = 0x06#8 then
    unlessReserved (rotReserved w == 0) (.rotl (argLow w) (rotField w))
  else if opField w = 0x07#8 then decodeN w .reset
  else .error .undefinedOpcode

/-- The command word of a command (R73): opcode, then the operand field most significant part
first, reserved bits zero. -/
def encode : Instr → CommandWord
  | .start len => 0x01#8 ++ 0#32 ++ len
  | .absorb v0 v1 => 0x02#8 ++ v1 ++ v0
  | .final => 0x03#8 ++ 0#64
  | .rddig => 0x04#8 ++ 0#64
  | .rdstat => 0x05#8 ++ 0#64
  | .rotl value n => 0x06#8 ++ 0#27 ++ n ++ value
  | .reset => 0x07#8 ++ 0#64

/-- The command word whose low `nbits` bits are those of `w` and whose other bits are 0. -/
def tableWord (nbits w : Nat) : CommandWord := BitVec.ofNat 72 (w % 2 ^ nbits)

/-- The host's query: the command in the word whose bits are `w`, numbered as the opcode table
numbers them (bit 0 the least significant bit of the one 72-bit word), or none if it is illegal. -/
def decodeTableWord (nbits w : Nat) : Option Instr :=
  (decode (tableWord nbits w)).toOption

end Sys2Proof
end

