-- ==== Sys2Proof/Machine/Operands.lean ====
section
/-!
DEFINITION. The arithmetic every command uses: the word operations and the rotator
(40_bitcodec.md R90 to R92), little-endian conversion (R93, R94), and the byte view of a digest
(20_memory.md R43, R44).
-/
namespace Sys2Proof.Machine

/-- `add32(a, b) = (a + b) mod 2^32`; the carry out is recorded nowhere (R90, 10_state.md R29). -/
def add32 (a b : Word) : Word := a + b

/-- `shl32(a, k) = (a * 2^k) mod 2^32` (R90). -/
def shl32 (a : Word) (k : Nat) : Word := a <<< k

/-- `shr32(a, k) = floor(a / 2^k)` (R90). -/
def shr32 (a : Word) (k : Nat) : Word := a >>> k

/-- The rotator `rotate_left32` (R91): the document's formula on a 32-bit word. The amount is 0 to
31 by its type; at 0 the formula gives `value`, as R92 defines. -/
def rotl32 (value : Word) (n : RotAmount) : Word :=
  shl32 value n.toNat ||| shr32 value (32 - n.toNat)

/-- `le_bytes(value, length)` (R93): byte `k` is `floor(value / 2^(8k)) mod 256`; higher bits are
discarded. -/
def leBytes (value length : Nat) : List Byte :=
  (List.range length).map fun k => BitVec.ofNat 8 (value / 2 ^ (8 * k) % 256)

/-- `le_word32(b0, b1, b2, b3)` (R94). -/
def leWord32 (b0 b1 b2 b3 : Byte) : Word :=
  b0.setWidth 32 ||| shl32 (b1.setWidth 32) 8 ||| shl32 (b2.setWidth 32) 16
    ||| shl32 (b3.setWidth 32) 24

/-- `len[2:0]`, zero exactly when `len` is a multiple of 8 (20_memory.md R45). -/
def lenLowBits (len : Word) : BitVec 3 := len.extractLsb' 0 3

/-- `len[31:3]`, the number of blocks of a message of `len` bytes (41_mixer.md R101). -/
def blockCount (len : Word) : BlockCount := len.extractLsb' 3 29

/-- The four state words as the 128-bit digest payload `{S[3], S[2], S[1], S[0]}` (30_encoding.md
R71, 20_memory.md R44). -/
def digestData (q : Quad) : BitVec 128 := q.w3 ++ q.w2 ++ q.w1 ++ q.w0

/-- The 16 output bytes of a digest payload: `Out(m) = data[8m+7 : 8m]` (20_memory.md R44). -/
def digestBytes (data : BitVec 128) : List Byte :=
  (List.range 16).map fun m => data.extractLsb' (8 * m) 8

end Sys2Proof.Machine
end

