-- ==== Sys2Proof/Config.lean ====
section
/-!
DEFINITION. What is fixed for an instance and what the spec leaves open. Nothing here has a body:
no proof can see a value, so a theorem holds whatever the values are.
-/
namespace Sys2Proof

/-- The configured initialization vector, the OPEN parameter `IV` (00_scope.md R6, 10_state.md R26,
93_implementation_defined.md U1). `State.reset` carries it; no rule gives its value. -/
opaque Config.iv : Quad

/-- Free values, one for each index: what a register holds where the spec calls its contents
unspecified (`S` after reset, 10_state.md R34; the whole state after power-up,
70_reset_and_hazards.md R150). Log entry 4. -/
opaque Config.freeWord : Nat → Word

end Sys2Proof
end

