-- ==== Sys2Proof/Machine/State.lean ====
section
/-!
DEFINITION. The state of one DMX instance as plain data (10_state.md R20), the events its host sends
it, and the reasons a step can stop. DMX has no memory, no program counter and no flags (R28, R29,
R33), so State has none.
-/
namespace Sys2Proof.Machine

/-- `PHASE` (10_state.md R24). Its 2-bit values are `Phase.code` (Machine/Flags.lean). -/
inductive Phase where
  /-- After reset: no message in progress, no digest held. -/
  | idle
  /-- A START was accepted: `CNT` blocks are still owed. -/
  | absorbing
  /-- A FINAL was accepted: `S` holds the digest words. -/
  | done
  /-- A command was refused: only reset leaves this phase. -/
  | fault
deriving DecidableEq, Repr

/-- The three synchronous faults of DMX (60_exceptions.md R130). Taking one is a next state of the
machine, not a stop of the model. -/
inductive FaultCause where
  /-- Code 1, R131: a START whose length is not a multiple of 8. -/
  | lenUnaligned
  /-- Code 2, R132: a well-formed command the current phase does not accept. -/
  | sequence
  /-- Code 3, R133: a word that is no command. -/
  | illegalCmd
deriving DecidableEq, Repr

/-- The kinds of response word (30_encoding.md R71). -/
inductive ResponseKind where
  | ack
  | digest
  | status
  | rot
  | fault
deriving DecidableEq, Repr

/-- One thing the outside does to the block (70_reset_and_hazards.md R150, R163). Events form one
total order with each other (R150, 20_memory.md R50). -/
inductive HostEvent where
  /-- The host sends a command word: any of the 2^72. -/
  | command (w : CommandWord)
  /-- The reset input is asserted (R150). -/
  | resetInput
  /-- Power is applied, or returns after a loss (R150, 60_exceptions.md R146). -/
  | powerOn
deriving DecidableEq, Repr

/-- One DMX instance (10_state.md R20), its configuration, and what stands between it and its host. -/
structure State where
  /-- `IV[0..3]`: read-only configuration (R26). Nothing writes it. -/
  iv : Quad
  /-- `S[0..3]` (R21). -/
  regs : Quad
  /-- `LEN` (R22). -/
  len : Word
  /-- `CNT` (R23). -/
  cnt : BlockCount
  /-- `PHASE` (R24). -/
  phase : Phase
  /-- `CAUSE` (R25). -/
  cause : BitVec 4
  /-- Events the block has not consumed yet, oldest first (20_memory.md R50, R53). Log entry 1. -/
  inbox : List HostEvent
  /-- Response words produced, oldest first (30_encoding.md R72). Log entry 1. -/
  outbox : List ResponseWord
  /-- Power was applied and the reset input has not been asserted since
  (70_reset_and_hazards.md R150). Log entry 6. -/
  awaitingReset : Bool
  /-- The model's own: the index of the next free value of `Config.freeWord`. Log entry 4. -/
  fresh : Nat
deriving DecidableEq, Repr

/-- Why the MODEL stops. The spec's own faults (60_exceptions.md R130) are not here: they are next
states. -/
inductive Fault where
  /-- Raised by the step when a command word is consumed between a power-up and the first assertion
  of the reset input, where the spec says to give the block no behaviour (70_reset_and_hazards.md
  R150; 93_implementation_defined.md U3, U10: stuck). Safe: the model stops where nothing is known. -/
  | commandBeforeReset
deriving DecidableEq, Repr

/-- Why the model would have no meaning for a command. -/
inductive Refusal where
  /-- Raised by an arm of `exec` whose command has no meaning yet. Safe. No arm raises it: every
  command of the opcode table has its meaning. -/
  | notModelled (mnemonic : String)
deriving DecidableEq, Repr

/-- The outcome of a step of DMX. -/
abbrev Outcome := Host.Outcome State Fault Refusal

/-- The machine right after reset (10_state.md R34): IDLE, no cause, `LEN` and `CNT` zero, `IV` the
configured value. `S` is unspecified there: zero is the model's choice (log entry 3). Nothing has
been sent and nothing answered (log entry 1); the free-value index starts at 0 (log entry 4). -/
def State.reset : State where
  iv := Config.iv
  regs := ⟨0, 0, 0, 0⟩
  len := 0
  cnt := 0
  phase := .idle
  cause := 0
  inbox := []
  outbox := []
  awaitingReset := false
  fresh := 0

end Sys2Proof.Machine
end

