-- ==== Sys2Proof/Machine/Flags.lean ====
section
/-!
DEFINITION. DMX has no condition codes (10_state.md R29): its status is `PHASE` and `CAUSE`. Here are
their codes, the status view (R27), the response kinds' codes (30_encoding.md R71), and for each
digest command the fault its phase, count and operand give it (60_exceptions.md R131, R132, R134).
-/
namespace Sys2Proof.Machine

/-- The 2-bit value of `PHASE` (10_state.md R24). -/
def Phase.code : Phase → BitVec 2
  | .idle => 0
  | .absorbing => 1
  | .done => 2
  | .fault => 3

/-- The phase a 2-bit value names (R24). -/
def Phase.ofCode (c : BitVec 2) : Phase :=
  if c = 0 then .idle else if c = 1 then .absorbing else if c = 2 then .done else .fault

/-- The 4-bit cause code (60_exceptions.md R130). -/
def FaultCause.code : FaultCause → BitVec 4
  | .lenUnaligned => 1
  | .sequence => 2
  | .illegalCmd => 3

/-- The 8-bit response kind (30_encoding.md R71). -/
def ResponseKind.code : ResponseKind → BitVec 8
  | .ack => 0x01
  | .digest => 0x02
  | .status => 0x03
  | .rot => 0x04
  | .fault => 0xFF

/-- The 128-bit `STATUS` view (10_state.md R27): PHASE in 1:0, CAUSE in 7:4, LEN in 63:32, CNT in
92:64, zeros elsewhere. -/
def statusView (s : State) : BitVec 128 :=
  0#35 ++ s.cnt ++ s.len ++ 0#24 ++ s.cause ++ 0#2 ++ s.phase.code

/-- The fault of a START outside FAULT phase, SEQUENCE before LEN_UNALIGNED (41_mixer.md R101,
60_exceptions.md R134). -/
def startFault (len : Word) (s : State) : Option FaultCause :=
  if s.phase ≠ .idle ∧ s.phase ≠ .done then some .sequence
  else if lenLowBits len ≠ 0 then some .lenUnaligned
  else none

/-- The fault of an ABSORB outside FAULT phase (R102). -/
def absorbFault (s : State) : Option FaultCause :=
  if s.phase ≠ .absorbing ∨ s.cnt = 0 then some .sequence else none

/-- The fault of a FINAL outside FAULT phase (R103). -/
def finalFault (s : State) : Option FaultCause :=
  if s.phase ≠ .absorbing ∨ s.cnt ≠ 0 then some .sequence else none

/-- The fault of an RDDIG outside FAULT phase (R104). -/
def rddigFault (s : State) : Option FaultCause :=
  if s.phase ≠ .done then some .sequence else none

end Sys2Proof.Machine
end

