-- ==== Sys2Proof/Machine/Ops.lean ====
section
/-!
DEFINITION. The operations the commands share: answering (30_encoding.md R61, R72), taking a fault
(60_exceptions.md R135), refusing in FAULT phase (42_control.md R122), the illegal word (R133), and
the one way back, reset (10_state.md R34, 60_exceptions.md R137).
-/
namespace Sys2Proof.Machine

/-- A response word: `kind` in bits 135:128, `data` in 127:0 (30_encoding.md R61). -/
def responseWord (k : ResponseKind) (data : BitVec 128) : ResponseWord := k.code ++ data

/-- The `kind` field of a response word (R61). -/
def responseKind (r : ResponseWord) : BitVec 8 := r.extractLsb' 128 8

/-- The `data` field of a response word (R61). -/
def responseData (r : ResponseWord) : BitVec 128 := r.extractLsb' 0 128

/-- `respond(kind, data)`: the one response of a command, behind those already produced (R72). -/
def respond (k : ResponseKind) (data : BitVec 128) (s : State) : State :=
  { s with outbox := s.outbox ++ [responseWord k data] }

/-- `raise Fault(c)` (60_exceptions.md R135): `PHASE`, `CAUSE` and the FAULT response, nothing
else. -/
def raiseFault (c : FaultCause) (s : State) : State :=
  respond .fault (c.code.setWidth 128) { s with phase := .fault, cause := c.code }

/-- A command refused in FAULT phase (42_control.md R122): answered with the latched cause, state
unchanged. -/
def refuseLatched (s : State) : State :=
  respond .fault (s.cause.setWidth 128) s

/-- A command that FAULT phase refuses (30_encoding.md R75, 42_control.md R122): in FAULT the latched
cause is answered; else the command's own fault is taken if it has one, and its effect happens if it
has none. -/
def guarded (fault : Option FaultCause) (effect : State) (s : State) : State :=
  if s.phase = .fault then refuseLatched s
  else match fault with
    | some c => raiseFault c s
    | none => effect

/-- A word that is no command (60_exceptions.md R133, 30_encoding.md R75). -/
def illegalCommand (s : State) : State :=
  guarded (some .illegalCmd) s s

/-- Four free values, at indices `n` to `n + 3` (log entry 4). -/
def freeQuad (n : Nat) : Quad :=
  ⟨Config.freeWord n, Config.freeWord (n + 1), Config.freeWord (n + 2), Config.freeWord (n + 3)⟩

/-- The effect of reset, by the RESET command or the reset input (70_reset_and_hazards.md R150,
10_state.md R34): `S` becomes unspecified, `IV` is untouched. It is also the only return from a
fault (60_exceptions.md R137). -/
def enterReset (s : State) : State :=
  { s with
    regs := freeQuad s.fresh
    len := 0
    cnt := 0
    phase := .idle
    cause := 0
    fresh := s.fresh + 4 }

/-- The reset input (70_reset_and_hazards.md R150): the effect of reset, no response; a block that
waited for it since power-up is ready. -/
def assertResetInput (s : State) : State :=
  { enterReset s with awaitingReset := false }

/-- Power is applied (70_reset_and_hazards.md R150, 93_implementation_defined.md U3, U10): the whole
state is unspecified until the reset input is asserted. `IV` is for the life of the instance (R157);
responses already taken and words not yet consumed are the host's. Log entry 6. -/
def applyPower (s : State) : State :=
  { s with
    regs := freeQuad s.fresh
    len := Config.freeWord (s.fresh + 4)
    cnt := (Config.freeWord (s.fresh + 5)).setWidth 29
    phase := Phase.ofCode ((Config.freeWord (s.fresh + 6)).setWidth 2)
    cause := (Config.freeWord (s.fresh + 7)).setWidth 4
    awaitingReset := true
    fresh := s.fresh + 8 }

/-- The next event of the host's stream and the state with it taken from the stream; none while the
host has sent nothing (20_memory.md R50). -/
def nextEvent (s : State) : Option (HostEvent × State) :=
  match s.inbox with
  | [] => none
  | e :: rest => some (e, { s with inbox := rest })

/-- The host sends one more event, behind those it has sent (20_memory.md R50). -/
def hostSend (e : HostEvent) (s : State) : State :=
  { s with inbox := s.inbox ++ [e] }

end Sys2Proof.Machine
end

