-- ==== Sys2Proof/Machine/BitCodec.lean ====
section
/-!
DEFINITION. The bit and integer codec's one command, ROTL (40_bitcodec.md section 4).
-/
namespace Sys2Proof.Machine

/-- ROTL (40_bitcodec.md R95): the rotator's value, in every phase, with no state read or written. -/
def execRotl (value : Word) (n : RotAmount) (s : State) : Outcome :=
  .next (respond .rot ((rotl32 value n).setWidth 128) s)

end Sys2Proof.Machine
end

