-- ==== Sys2Proof/Machine/Control.lean ====
section
/-!
DEFINITION. The control commands RESET and RDSTAT (42_control.md R120, R121).
-/
namespace Sys2Proof.Machine

/-- RESET (R120): the reset state, in every phase, and ACK. -/
def execReset (s : State) : Outcome :=
  .next (respond .ack 0 (enterReset s))

/-- RDSTAT (R121): the status view, in every phase, with no state written. -/
def execRdstat (s : State) : Outcome :=
  .next (respond .status (statusView s) s)

end Sys2Proof.Machine
end

