-- ==== Sys2Proof/Machine/Mixer.lean ====
section
/-!
DEFINITION. The mixer's commands START, ABSORB, FINAL, RDDIG (41_mixer.md R101 to R104) over the three
word functions they apply to `S`.
-/
namespace Sys2Proof.Machine

/-- Steps 1 and 2 (41_mixer.md R101): the length folded into the initialization vector, shifts 0, 8,
16, 24. -/
def foldLength (iv : Quad) (len : Word) : Quad where
  w0 := iv.w0 ^^^ len
  w1 := iv.w1 ^^^ shl32 len 8
  w2 := iv.w2 ^^^ shl32 len 16
  w3 := iv.w3 ^^^ shl32 len 24

/-- Step 3 for one block (R102): rotations 7, 11, 13, 17, sequential; the third line reads the new
word 0 and the fourth the new word 1. -/
def mixRound (q : Quad) (v0 v1 : Word) : Quad :=
  let n0 := rotl32 (add32 q.w0 v0 ^^^ q.w2) 7
  let n1 := rotl32 (add32 (v0 ^^^ q.w1) q.w3) 11
  let n2 := rotl32 (add32 q.w2 v1 ^^^ n0) 13
  let n3 := rotl32 (add32 (q.w3 ^^^ v1) n1) 17
  ⟨n0, n1, n2, n3⟩

/-- Step 4 (R103): the chain `t0` to `t3`. -/
def finalChain (q : Quad) (len : Word) : Quad :=
  let t0 := q.w0 ^^^ len
  let t1 := q.w1 ^^^ t0
  let t2 := add32 q.w2 t1
  let t3 := q.w3 ^^^ t2
  ⟨t0, t1, t2, t3⟩

/-- Step 5 (R103): rotations 9, 13, 17, 19. -/
def finalRotate (t : Quad) : Quad :=
  ⟨rotl32 t.w0 9, rotl32 t.w1 13, rotl32 t.w2 17, rotl32 t.w3 19⟩

/-- Step 6 (R103, R109), sequential: the third line reads the new word 0 and the fourth the new
word 1. -/
def finalMix (rt : Quad) : Quad :=
  let f0 := add32 rt.w0 rt.w2
  let f1 := rt.w1 ^^^ rt.w3
  let f2 := add32 rt.w2 f0
  let f3 := rt.w3 ^^^ f1
  ⟨f0, f1, f2, f3⟩

/-- Steps 4 to 6 (R103). -/
def finalize (q : Quad) (len : Word) : Quad :=
  finalMix (finalRotate (finalChain q len))

/-- START (R101): SEQUENCE outside IDLE and DONE, LEN_UNALIGNED for a length that is no multiple of
8, else the message begins. -/
def execStart (len : Word) (s : State) : Outcome :=
  .next (guarded (startFault len s)
    (respond .ack 0
      { s with
        regs := foldLength s.iv len
        len := len
        cnt := blockCount len
        phase := .absorbing })
    s)

/-- ABSORB (R102): one round; SEQUENCE unless a block is owed. -/
def execAbsorb (v0 v1 : Word) (s : State) : Outcome :=
  .next (guarded (absorbFault s)
    (respond .ack 0 { s with regs := mixRound s.regs v0 v1, cnt := s.cnt - 1 })
    s)

/-- FINAL (R103): the digest; SEQUENCE unless a message is in progress and no block is owed. -/
def execFinal (s : State) : Outcome :=
  .next (guarded (finalFault s)
    (respond .digest (digestData (finalize s.regs s.len))
      { s with regs := finalize s.regs s.len, phase := .done })
    s)

/-- RDDIG (R104): the held digest again; SEQUENCE outside DONE. -/
def execRddig (s : State) : Outcome :=
  .next (guarded (rddigFault s) (respond .digest (digestData s.regs) s) s)

end Sys2Proof.Machine
end

