-- ==== Sys2Proof/Machine/Dispatch.lean ====
section
/-!
DEFINITION. One arm per command (30_encoding.md R75). The order of R75's tests stands in the meanings:
RESET, RDSTAT and ROTL run in every phase; the others go through `guarded`.
-/
namespace Sys2Proof.Machine

def exec (i : Instr) (s : State) : Host.Outcome State Fault Refusal :=
  match i with
  | .start len => Sys2Proof.Machine.execStart len s
  | .absorb v0 v1 => Sys2Proof.Machine.execAbsorb v0 v1 s
  | .final => Sys2Proof.Machine.execFinal s
  | .rddig => Sys2Proof.Machine.execRddig s
  | .rdstat => Sys2Proof.Machine.execRdstat s
  | .rotl value n => Sys2Proof.Machine.execRotl value n s
  | .reset => Sys2Proof.Machine.execReset s

end Sys2Proof.Machine
end

