-- ==== Sys2Proof/Machine/Events.lean ====
section
/-!
DEFINITION. What the block does with one event of its host: the dispatch of a command word
(30_encoding.md R75), the reset input and power-up (70_reset_and_hazards.md R150).
-/
namespace Sys2Proof.Machine

/-- Execution of one command word (30_encoding.md R75): the decoded command, or the illegal word. -/
def runWord (w : CommandWord) (s : State) : Outcome :=
  match decode w with
  | .ok i => exec i s
  | .error _ => .next (illegalCommand s)

/-- One event. A command word consumed between power-up and the reset input stops the model
(70_reset_and_hazards.md R150: no behaviour). -/
def runEvent (e : HostEvent) (s : State) : Outcome :=
  match e with
  | .command w => if s.awaitingReset then .fault .commandBeforeReset else runWord w s
  | .resetInput => .next (assertResetInput s)
  | .powerOn => .next (applyPower s)

/-- One step: the oldest event the host has sent; with none the block waits, and waiting changes no
state (60_exceptions.md R146). -/
def stepEvent (s : State) : Outcome :=
  match nextEvent s with
  | none => .next s
  | some (e, t) => runEvent e t

/-- `w` placed as the very next event, before any the host has already sent, on a block that has
been reset since power-up. -/
def placeWord (w : CommandWord) (s : State) : State :=
  { s with inbox := .command w :: s.inbox, awaitingReset := false }

end Sys2Proof.Machine
end

