-- ==== Sys2Proof/Machine/Step.lean ====
section
/-!
DEFINITION. The step of DMX and the host's way to place a command word. Both only call
Machine/Events.lean.
-/
namespace Sys2Proof.Machine

/-- One step of DMX: one event of the host consumed, as one atomic step (00_scope.md R8,
20_memory.md R47). -/
def step (s : State) : Host.Outcome State Fault Refusal := stepEvent s

/-- `s` with the opcode table's word `w` of `nbits` bits as the next event the step consumes. -/
def State.withFetchWord (s : State) (nbits w : Nat) : State :=
  placeWord (tableWord nbits w) s

end Sys2Proof.Machine
end

