-- ==== Sys2Proof/Machine/Assembler.lean ====
section
/-!
DEFINITION. The assembler of 30_encoding.md R73 and its pseudo-instructions R74, from abstract syntax
(numbers as numbers, not as text) to command words.
-/
namespace Sys2Proof.Machine

/-- ABSORBB (R74): an ABSORB of eight bytes in message order. -/
def absorbBytes (b0 b1 b2 b3 b4 b5 b6 b7 : Byte) : Instr :=
  .absorb (leWord32 b0 b1 b2 b3) (leWord32 b4 b5 b6 b7)

/-- The ABSORBB commands of a message, block by block in ascending order (R74, 20_memory.md R41). -/
def blockCommands : List Byte → List Instr
  | b0 :: b1 :: b2 :: b3 :: b4 :: b5 :: b6 :: b7 :: rest =>
    absorbBytes b0 b1 b2 b3 b4 b5 b6 b7 :: blockCommands rest
  | _ => []

/-- `MIX M` (R74): START with the length, the blocks, FINAL. -/
def mixCommands (msg : List Byte) : List Instr :=
  .start (BitVec.ofNat 32 msg.length) :: (blockCommands msg ++ [.final])

/-- One line of the assembler (R73, R74), its numbers as written. -/
inductive AsmLine where
  | start (len : Nat)
  | absorb (v0 v1 : Nat)
  | final
  | rddig
  | rdstat
  | rotl (value n : Nat)
  | reset
  /-- `.word72 x`: a literal word. -/
  | word72 (x : Nat)
  | absorbb (b0 b1 b2 b3 b4 b5 b6 b7 : Nat)
  /-- `MIX M`. -/
  | mix (msg : List Byte)
deriving DecidableEq, Repr

/-- Every operand of the line is in the range R73 gives it; a mixed message's length is a multiple of
8 and fits the length field. -/
def AsmLine.wellFormed : AsmLine → Bool
  | .start len => decide (len < 2 ^ 32)
  | .absorb v0 v1 => decide (v0 < 2 ^ 32) && decide (v1 < 2 ^ 32)
  | .final => true
  | .rddig => true
  | .rdstat => true
  | .rotl value n => decide (value < 2 ^ 32) && decide (n ≤ 31)
  | .reset => true
  | .word72 x => decide (x < 2 ^ 72)
  | .absorbb b0 b1 b2 b3 b4 b5 b6 b7 =>
    [b0, b1, b2, b3, b4, b5, b6, b7].all fun b => decide (b < 256)
  | .mix msg => decide (msg.length % 8 = 0) && decide (msg.length < 2 ^ 32)

/-- The command words of a line, operands taken at their fields' widths. -/
def AsmLine.words : AsmLine → List CommandWord
  | .start len => [encode (.start (BitVec.ofNat 32 len))]
  | .absorb v0 v1 => [encode (.absorb (BitVec.ofNat 32 v0) (BitVec.ofNat 32 v1))]
  | .final => [encode .final]
  | .rddig => [encode .rddig]
  | .rdstat => [encode .rdstat]
  | .rotl value n => [encode (.rotl (BitVec.ofNat 32 value) (BitVec.ofNat 5 n))]
  | .reset => [encode .reset]
  | .word72 x => [BitVec.ofNat 72 x]
  | .absorbb b0 b1 b2 b3 b4 b5 b6 b7 =>
    [encode (absorbBytes (BitVec.ofNat 8 b0) (BitVec.ofNat 8 b1) (BitVec.ofNat 8 b2)
      (BitVec.ofNat 8 b3) (BitVec.ofNat 8 b4) (BitVec.ofNat 8 b5) (BitVec.ofNat 8 b6)
      (BitVec.ofNat 8 b7))]
  | .mix msg => (mixCommands msg).map encode

/-- The words of a line, or none if an operand is out of its range (R73). -/
def assemble (l : AsmLine) : Option (List CommandWord) :=
  if l.wellFormed then some l.words else none

end Sys2Proof.Machine
end

