-- ==== Sys2Proof/Machine/Mix.lean ====
section
/-!
DEFINITION. The pure function `Mix(IV, M)` of 41_mixer.md R100, written from its own pseudocode and
not from the commands, so that their agreement (R105) is something to prove.
-/
namespace Sys2Proof.Machine

/-- Steps 4 to 7 of R100 from the state after the last block. -/
def mixFinish (s0 s1 s2 s3 len : Word) : List Byte :=
  let t0 := s0 ^^^ len
  let t1 := s1 ^^^ t0
  let t2 := add32 s2 t1
  let t3 := s3 ^^^ t2
  let rt0 := rotl32 t0 9
  let rt1 := rotl32 t1 13
  let rt2 := rotl32 t2 17
  let rt3 := rotl32 t3 19
  let f0 := add32 rt0 rt2
  let f1 := rt1 ^^^ rt3
  let f2 := add32 rt2 f0
  let f3 := rt3 ^^^ f1
  leBytes f0.toNat 4 ++ leBytes f1.toNat 4 ++ leBytes f2.toNat 4 ++ leBytes f3.toNat 4

/-- Step 3 of R100 over the blocks of the message that are left, then steps 4 to 7. -/
def mixBlocks (len : Word) : List Byte → Word → Word → Word → Word → List Byte
  | b0 :: b1 :: b2 :: b3 :: b4 :: b5 :: b6 :: b7 :: rest, s0, s1, s2, s3 =>
    let v0 := leWord32 b0 b1 b2 b3
    let v1 := leWord32 b4 b5 b6 b7
    let n0 := rotl32 (add32 s0 v0 ^^^ s2) 7
    let n1 := rotl32 (add32 (v0 ^^^ s1) s3) 11
    let n2 := rotl32 (add32 s2 v1 ^^^ n0) 13
    let n3 := rotl32 (add32 (s3 ^^^ v1) n1) 17
    mixBlocks len rest n0 n1 n2 n3
  | _, s0, s1, s2, s3 => mixFinish s0 s1 s2 s3 len

/-- `Mix(IV, M)` (R100), defined for a length that is a multiple of 8 and below 2^32; any other
message has no output (20_memory.md R45: it must fail, never be padded or truncated). -/
def mix (iv : Quad) (msg : List Byte) : Option (List Byte) :=
  if msg.length % 8 = 0 ∧ msg.length < 2 ^ 32 then
    let len := BitVec.ofNat 32 msg.length
    some (mixBlocks len msg (iv.w0 ^^^ len) (iv.w1 ^^^ shl32 len 8) (iv.w2 ^^^ shl32 len 16)
      (iv.w3 ^^^ shl32 len 24))
  else none

end Sys2Proof.Machine
end

