-- ==== Sys2Proof/Safety.lean ====
section
/-!
DEFINITION. The terms the statements use: the invariants of 10_state.md R35, agreement of two states up
to an `S` no response may depend on (R34, 60_exceptions.md R136), the phase machine of 42_control.md
R123 as a table, and the digest run of 70_reset_and_hazards.md R160.
-/
namespace Sys2Proof.Machine

/-- Items 1 to 5 of 10_state.md R35, of a block that has been reset since power-up (before that the
whole state is unspecified, 70_reset_and_hazards.md R150). Item 6 is a fact about the history and is
stated through `AgreeUpToHiddenS`. -/
abbrev MeetsInvariants (s : State) : Prop :=
  s.awaitingReset = false →
    ((s.cause = 0 ↔ s.phase ≠ .fault) ∧ s.cause.toNat ≤ 3) ∧
    (s.phase = .absorbing ∨ s.phase = .done → s.len.toNat % 8 = 0) ∧
    (s.phase = .absorbing → s.cnt.toNat ≤ s.len.toNat / 8) ∧
    (s.phase = .done → s.cnt = 0) ∧
    (s.phase = .idle → s.len = 0 ∧ s.cnt = 0)

/-- `S` is readable or feeds a later digest: a message is in progress or a digest is held
(10_state.md R21, R34). -/
abbrev SInUse (s : State) : Prop :=
  s.awaitingReset = false ∧ (s.phase = .absorbing ∨ s.phase = .done)

/-- Two instances that agree on everything but `S`, and on `S` too where it is in use. -/
abbrev AgreeUpToHiddenS (s t : State) : Prop :=
  t = { s with regs := t.regs } ∧ (SInUse s → t.regs = s.regs)

/-- An entry of the table of 42_control.md R123. -/
inductive PhaseEntry where
  /-- The command is accepted and the phase becomes `p`. -/
  | accepted (p : Phase)
  /-- A fault is taken: `F:SEQ`, `F:LEN_UNALIGNED` or `F:ILL`. -/
  | faults (c : FaultCause)
  /-- Refused in FAULT phase: phase and cause stay. -/
  | refused
deriving DecidableEq, Repr

/-- The table of 42_control.md R123, the rows being the phase (ABSORBING split by whether blocks are
owed) and the columns the command; RDSTAT and ROTL keep the phase. -/
def phaseTable (p : Phase) (blocksOwed : Bool) : Instr → PhaseEntry
  | .reset => .accepted .idle
  | .rdstat => .accepted p
  | .rotl _ _ => .accepted p
  | .start len =>
    match p with
    | .idle => if len.toNat % 8 = 0 then .accepted .absorbing else .faults .lenUnaligned
    | .absorbing => .faults .sequence
    | .done => if len.toNat % 8 = 0 then .accepted .absorbing else .faults .lenUnaligned
    | .fault => .refused
  | .absorb _ _ =>
    match p with
    | .idle => .faults .sequence
    | .absorbing => if blocksOwed then .accepted .absorbing else .faults .sequence
    | .done => .faults .sequence
    | .fault => .refused
  | .final =>
    match p with
    | .idle => .faults .sequence
    | .absorbing => if blocksOwed then .faults .sequence else .accepted .done
    | .done => .faults .sequence
    | .fault => .refused
  | .rddig =>
    match p with
    | .idle => .faults .sequence
    | .absorbing => .faults .sequence
    | .done => .accepted .done
    | .fault => .refused

/-- How a digest run ends (70_reset_and_hazards.md R160). -/
inductive RunResult where
  /-- An accepted FINAL: the 16 bytes of its DIGEST response. -/
  | succeeded (bytes : List Byte)
  /-- A command that faulted, or a RESET. -/
  | failed
  /-- The commands end before the run does. -/
  | unfinished
deriving DecidableEq, Repr

/-- The word is a well-formed RESET. -/
def isResetWord (w : CommandWord) : Bool :=
  match decode w with
  | .ok .reset => true
  | _ => false

/-- The result of a digest run from the state right after its accepted START, over the command words
that follow (70_reset_and_hazards.md R160). -/
def digestRun : List CommandWord → State → RunResult
  | [], _ => .unfinished
  | w :: ws, s =>
    match runWord w s with
    | .next t =>
      if isResetWord w ∨ t.phase = .fault then .failed
      else if t.phase = .done then
        .succeeded (digestBytes (responseData (t.outbox.getLastD 0)))
      else digestRun ws t
    | .fault _ => .failed
    | .refused _ => .failed

end Sys2Proof.Machine
end

