-- ==== Sys2Proof/Certificates/Slice0/Obligations.lean ====
section
/-!
DEFINITION. The statements for the provers, each formalising rules of the spec (named in its
docstring). Effects are written out from the rules' own pseudocode over the state's fields; an
equation with a full record is also the frame: every field not named is unchanged.

`regs` is `S`; `inbox` and `outbox` are the host's side (log entry 1); `fresh` is the index of free
values (log entry 4), on whose value no statement rests.
-/

open Sys2Proof Sys2Proof.Machine

/-! ### Encoding -/

/-- 30_encoding.md R60, R63 to R66, R73: the word of a command decodes to that command, for every
command and every value of every operand. -/
def Obligations.DecodeOfEncode : Prop :=
  ∀ i : Instr, decode (encode i) = .ok i

/-- R60, R63 to R66, R68, R73: a word that decodes is the word of its command, so no bit of a
well-formed word is ignored. -/
def Obligations.EncodeOfDecode : Prop :=
  ∀ (w : CommandWord) (i : Instr), decode w = .ok i → encode i = w

/-- R62 to R64, R66, R67: the fields of formats N, L and R, their reserved bits, and the undefined
opcodes, from the words' bit positions. -/
def Obligations.FormatFields : Prop :=
  ∀ w : CommandWord,
    (w.extractLsb' 64 8 = 0x01#8 → decode w =
      if w.extractLsb' 32 32 = 0#32 then .ok (.start (w.extractLsb' 0 32))
      else .error .reservedBits) ∧
    (w.extractLsb' 64 8 = 0x02#8 →
      decode w = .ok (.absorb (w.extractLsb' 0 32) (w.extractLsb' 32 32))) ∧
    (w.extractLsb' 64 8 = 0x03#8 → decode w =
      if w.extractLsb' 0 64 = 0#64 then .ok .final else .error .reservedBits) ∧
    (w.extractLsb' 64 8 = 0x04#8 → decode w =
      if w.extractLsb' 0 64 = 0#64 then .ok .rddig else .error .reservedBits) ∧
    (w.extractLsb' 64 8 = 0x05#8 → decode w =
      if w.extractLsb' 0 64 = 0#64 then .ok .rdstat else .error .reservedBits) ∧
    (w.extractLsb' 64 8 = 0x06#8 → decode w =
      if w.extractLsb' 37 27 = 0#27 then
        .ok (.rotl (w.extractLsb' 0 32) (w.extractLsb' 32 5))
      else .error .reservedBits) ∧
    (w.extractLsb' 64 8 = 0x07#8 → decode w =
      if w.extractLsb' 0 64 = 0#64 then .ok .reset else .error .reservedBits) ∧
    ((w.extractLsb' 64 8 = 0x00#8 ∨ 0x08 ≤ (w.extractLsb' 64 8).toNat) →
      decode w = .error .undefinedOpcode)

/-- R65: format B. Byte `k` of the block stands at `arg[8k+7 : 8k]`; every 64-bit value is a legal
block. -/
def Obligations.BlockFormatBytes : Prop :=
  (∀ b0 b1 b2 b3 b4 b5 b6 b7 : Byte,
    let w := encode (absorbBytes b0 b1 b2 b3 b4 b5 b6 b7)
    w.extractLsb' 64 8 = 0x02#8 ∧
    w.extractLsb' 0 8 = b0 ∧ w.extractLsb' 8 8 = b1 ∧
    w.extractLsb' 16 8 = b2 ∧ w.extractLsb' 24 8 = b3 ∧
    w.extractLsb' 32 8 = b4 ∧ w.extractLsb' 40 8 = b5 ∧
    w.extractLsb' 48 8 = b6 ∧ w.extractLsb' 56 8 = b7) ∧
  (∀ arg : BitVec 64,
    decode (0x02#8 ++ arg) = .ok (.absorb (arg.extractLsb' 0 32) (arg.extractLsb' 32 32)))

/-- R68: a word decodes exactly when it selects a row of the opcode table under its mask, that is,
when its opcode is 0x01 to 0x07 and its format's reserved bits are zero; an illegal word outside
FAULT phase raises ILLEGAL_CMD and has no other effect. -/
def Obligations.DecodesExactlyWellFormedWords : Prop :=
  ∀ w : CommandWord,
    ((∃ i, decode w = .ok i) ↔ wordWellFormed w = true) ∧
    (wordWellFormed w = true ↔
      (0x01 ≤ (w.extractLsb' 64 8).toNat ∧ (w.extractLsb' 64 8).toNat ≤ 0x07) ∧
      (w.extractLsb' 64 8 = 0x01#8 → w.extractLsb' 32 32 = 0#32) ∧
      (w.extractLsb' 64 8 = 0x06#8 → w.extractLsb' 37 27 = 0#27) ∧
      (w.extractLsb' 64 8 = 0x03#8 ∨ w.extractLsb' 64 8 = 0x04#8 ∨
        w.extractLsb' 64 8 = 0x05#8 ∨ w.extractLsb' 64 8 = 0x07#8 → w.extractLsb' 0 64 = 0#64)) ∧
    (wordWellFormed w = false → ∀ s : State, s.phase ≠ .fault →
      runWord w s = .next { s with
        phase := .fault
        cause := 3
        outbox := s.outbox ++ [responseWord .fault 3] })

/-- R62, R68: no word selects two rows of the opcode table. -/
def Obligations.OpcodeRowsDisjoint : Prop :=
  ∀ (w : CommandWord) (r q : OpcodeRow), r ∈ opcodeTable → q ∈ opcodeTable →
    r.accepts w = true → q.accepts w = true → r = q

/-- R62 to R68, on words written out from the spec's encodings (95_test_vectors.md section 2.7):
a sanity statement. -/
def Obligations.DecodeSampleWords : Prop :=
  decode 0x0100000000FFFFFFFF#72 = .ok (.start 0xFFFFFFFF) ∧
  decode 0x020706050403020100#72 = .ok (.absorb 0x03020100 0x07060504) ∧
  decode 0x030000000000000000#72 = .ok .final ∧
  decode 0x040000000000000000#72 = .ok .rddig ∧
  decode 0x050000000000000000#72 = .ok .rdstat ∧
  decode 0x060000001FFFFFFFFF#72 = .ok (.rotl 0xFFFFFFFF 31) ∧
  decode 0x070000000000000000#72 = .ok .reset ∧
  decode 0x010000000100000000#72 = .error .reservedBits ∧
  decode 0x060000002000000000#72 = .error .reservedBits ∧
  decode 0x030000000000000001#72 = .error .reservedBits ∧
  decode 0x000000000000000000#72 = .error .undefinedOpcode ∧
  decode 0x080000000000000000#72 = .error .undefinedOpcode

/-- R61, R71: the fields of a response word and the five kind codes. -/
def Obligations.ResponseWordFields : Prop :=
  ∀ (k : ResponseKind) (data : BitVec 128),
    (responseWord k data).extractLsb' 0 128 = data ∧
    (responseWord k data).extractLsb' 128 8 =
      (match k with
        | .ack => 0x01#8
        | .digest => 0x02#8
        | .status => 0x03#8
        | .rot => 0x04#8
        | .fault => 0xFF#8)

/-- R73, R74: every word an accepted assembler line gives, but for a literal `.word72`, is well
formed. -/
def Obligations.AssembledLinesAreWellFormed : Prop :=
  ∀ (l : AsmLine) (ws : List CommandWord), assemble l = some ws → (∀ x, l ≠ .word72 x) →
    ∀ w ∈ ws, wordWellFormed w = true

/-- R73 (its table, on operands as numbers), R11: the command word of each assembler line, operands
out of range refused. -/
def Obligations.AssemblerWords : Prop :=
  (∀ len : Nat, assemble (.start len) =
    if len < 2 ^ 32 then some [0x01#8 ++ BitVec.ofNat 64 len] else none) ∧
  (∀ v0 v1 : Nat, assemble (.absorb v0 v1) =
    if v0 < 2 ^ 32 ∧ v1 < 2 ^ 32 then
      some [0x02#8 ++ (BitVec.ofNat 32 v1 ++ BitVec.ofNat 32 v0)]
    else none) ∧
  assemble .final = some [0x03#8 ++ 0#64] ∧
  assemble .rddig = some [0x04#8 ++ 0#64] ∧
  assemble .rdstat = some [0x05#8 ++ 0#64] ∧
  (∀ value n : Nat, assemble (.rotl value n) =
    if value < 2 ^ 32 ∧ n ≤ 31 then
      some [0x06#8 ++ (0#27 ++ BitVec.ofNat 5 n ++ BitVec.ofNat 32 value)]
    else none) ∧
  assemble .reset = some [0x07#8 ++ 0#64] ∧
  (∀ x : Nat, assemble (.word72 x) = if x < 2 ^ 72 then some [BitVec.ofNat 72 x] else none)

/-- R74 and 20_memory.md R41: `MIX M` is START with the length, then the blocks in ascending order,
byte `8i + k` of the message at bits `8k+7 : 8k` of the `i`-th ABSORB, then FINAL; `ABSORBB` is the
ABSORB of its two little-endian words. -/
def Obligations.MixExpansion : Prop :=
  (∀ b0 b1 b2 b3 b4 b5 b6 b7 : Byte,
    assemble (.absorbb b0.toNat b1.toNat b2.toNat b3.toNat b4.toNat b5.toNat b6.toNat b7.toNat) =
      assemble (.absorb (leWord32 b0 b1 b2 b3).toNat (leWord32 b4 b5 b6 b7).toNat)) ∧
  (∀ msg : List Byte, msg.length % 8 = 0 → msg.length < 2 ^ 32 →
    ∃ ws, assemble (.mix msg) = some ws ∧ ws.length = msg.length / 8 + 2 ∧
      ws[0]? = some (0x01#8 ++ BitVec.ofNat 64 msg.length) ∧
      (∀ i : Nat, i < msg.length / 8 → ∃ w, ws[i + 1]? = some w ∧ w.extractLsb' 64 8 = 0x02#8 ∧
        ∀ k : Nat, k < 8 → msg[8 * i + k]? = some (w.extractLsb' (8 * k) 8)) ∧
      ws[msg.length / 8 + 1]? = some (0x03#8 ++ 0#64))

/-! ### Arithmetic and byte order -/

/-- 40_bitcodec.md R90: the word operations as exact arithmetic, for `0 ≤ k ≤ 31`, and the laws the
rule names. -/
def Obligations.WordArithmetic : Prop :=
  (∀ a b : Word, (add32 a b).toNat = (a.toNat + b.toNat) % 2 ^ 32) ∧
  (∀ (a : Word) (k : Nat), k ≤ 31 → (shl32 a k).toNat = a.toNat * 2 ^ k % 2 ^ 32) ∧
  (∀ (a : Word) (k : Nat), k ≤ 31 → (shr32 a k).toNat = a.toNat / 2 ^ k) ∧
  (∀ (a b : Word) (i : Nat), (a ^^^ b).getLsbD i = (a.getLsbD i ^^ b.getLsbD i) ∧
    (a ||| b).getLsbD i = (a.getLsbD i || b.getLsbD i) ∧
    (a &&& b).getLsbD i = (a.getLsbD i && b.getLsbD i)) ∧
  (∀ a b c : Word, add32 a b = add32 b a ∧ add32 (add32 a b) c = add32 a (add32 b c) ∧
    a ^^^ b = b ^^^ a ∧ a ^^^ b ^^^ c = a ^^^ (b ^^^ c)) ∧
  (∃ a b c : Word, add32 a b ^^^ c ≠ add32 (a ^^^ c) (b ^^^ c)) ∧
  (∃ a b c : Word, add32 (a ^^^ b) c ≠ add32 a c ^^^ add32 b c)

/-- R91: the rotator is the document's formula for `1 ≤ n ≤ 31`, and bit `i` of the operand becomes
bit `(i + n) mod 32` of the result. -/
def Obligations.RotatorMovesEveryBit : Prop :=
  ∀ (v : Word) (n : RotAmount),
    (1 ≤ n.toNat →
      (rotl32 v n).toNat = (v.toNat * 2 ^ n.toNat % 2 ^ 32) ||| (v.toNat / 2 ^ (32 - n.toNat))) ∧
    ∀ i : Nat, i < 32 → (rotl32 v n).getLsbD ((i + n.toNat) % 32) = v.getLsbD i

/-- R92 (its identities are the spec's own inferences: "Useful identities [derived]") and the
inference of R91 that the two operands of `|` never share a 1: composition, injectivity, the fixed
words, and `n = 0` as R92 defines it. -/
def Obligations.RotatorIdentities : Prop :=
  (∀ (v : Word) (a b : RotAmount), rotl32 (rotl32 v a) b = rotl32 v (a + b)) ∧
  (∀ (v u : Word) (n : RotAmount), rotl32 v n = rotl32 u n → v = u) ∧
  (∀ n : RotAmount, rotl32 0 n = 0 ∧ rotl32 0xFFFFFFFF n = 0xFFFFFFFF) ∧
  (∀ v : Word, rotl32 v 0 = v) ∧
  (∀ (v : Word) (n : RotAmount), shl32 v n.toNat &&& shr32 v (32 - n.toNat) = 0)

/-- R93: `le_bytes` has the asked length, and byte `k` is `floor(value / 2^(8k)) mod 256`. -/
def Obligations.LittleEndianBytes : Prop :=
  ∀ value length : Nat, (leBytes value length).length = length ∧
    ∀ k : Nat, k < length →
      (leBytes value length)[k]?.map BitVec.toNat = some (value / 2 ^ (8 * k) % 256)

/-- R94 and its inference ("It is the inverse of `le_bytes(., 4)` on words [derived]"): the value of
`le_word32`, and that the two conversions undo each other. -/
def Obligations.LittleEndianWordInverse : Prop :=
  (∀ b0 b1 b2 b3 : Byte,
    (leWord32 b0 b1 b2 b3).toNat =
      b0.toNat + b1.toNat * 2 ^ 8 + b2.toNat * 2 ^ 16 + b3.toNat * 2 ^ 24 ∧
    leBytes (leWord32 b0 b1 b2 b3).toNat 4 = [b0, b1, b2, b3]) ∧
  (∀ v : Word, ∃ b0 b1 b2 b3 : Byte,
    leBytes v.toNat 4 = [b0, b1, b2, b3] ∧ leWord32 b0 b1 b2 b3 = v)

/-- 20_memory.md R43: the 16 output bytes are the little-endian encodings of the four words, in
order. -/
def Obligations.DigestBytesLittleEndian : Prop :=
  ∀ q : Quad,
    digestBytes (digestData q) =
      leBytes q.w0.toNat 4 ++ leBytes q.w1.toNat 4 ++ leBytes q.w2.toNat 4 ++ leBytes q.w3.toNat 4 ∧
    ∀ j k : Nat, j < 4 → k < 4 →
      (digestBytes (digestData q))[4 * j + k]? =
        ([q.w0, q.w1, q.w2, q.w3][j]?).map fun w => w.extractLsb' (8 * k) 8

/-! ### The commands -/

/-- 41_mixer.md R101: START in full: accepted from IDLE and DONE with a length that is a multiple of
8; LEN_UNALIGNED from there otherwise; SEQUENCE from ABSORBING whatever the length; in FAULT phase
as R122. -/
def Obligations.StartBehaviour : Prop :=
  ∀ (len : Word) (s : State),
    ((s.phase = .idle ∨ s.phase = .done) → len.toNat % 8 = 0 →
      exec (.start len) s = .next { s with
        regs := ⟨s.iv.w0 ^^^ len, s.iv.w1 ^^^ shl32 len 8, s.iv.w2 ^^^ shl32 len 16,
          s.iv.w3 ^^^ shl32 len 24⟩
        len := len
        cnt := BitVec.ofNat 29 (len.toNat / 8)
        phase := .absorbing
        outbox := s.outbox ++ [responseWord .ack 0] }) ∧
    ((s.phase = .idle ∨ s.phase = .done) → len.toNat % 8 ≠ 0 →
      exec (.start len) s = .next { s with
        phase := .fault
        cause := 1
        outbox := s.outbox ++ [responseWord .fault 1] }) ∧
    (s.phase = .absorbing →
      exec (.start len) s = .next { s with
        phase := .fault
        cause := 2
        outbox := s.outbox ++ [responseWord .fault 2] }) ∧
    (s.phase = .fault →
      exec (.start len) s = .next { s with
        outbox := s.outbox ++ [responseWord .fault (s.cause.setWidth 128)] })

/-- R102: ABSORB in full: one sequential round while a block is owed; SEQUENCE in IDLE, in DONE and
when no block is owed; in FAULT phase as R122. -/
def Obligations.AbsorbBehaviour : Prop :=
  ∀ (v0 v1 : Word) (s : State),
    (s.phase = .absorbing → s.cnt ≠ 0 →
      let n0 := rotl32 (add32 s.regs.w0 v0 ^^^ s.regs.w2) 7
      let n1 := rotl32 (add32 (v0 ^^^ s.regs.w1) s.regs.w3) 11
      let n2 := rotl32 (add32 s.regs.w2 v1 ^^^ n0) 13
      let n3 := rotl32 (add32 (s.regs.w3 ^^^ v1) n1) 17
      exec (.absorb v0 v1) s = .next { s with
        regs := ⟨n0, n1, n2, n3⟩
        cnt := BitVec.ofNat 29 (s.cnt.toNat - 1)
        outbox := s.outbox ++ [responseWord .ack 0] }) ∧
    ((s.phase = .idle ∨ s.phase = .done ∨ (s.phase = .absorbing ∧ s.cnt = 0)) →
      exec (.absorb v0 v1) s = .next { s with
        phase := .fault
        cause := 2
        outbox := s.outbox ++ [responseWord .fault 2] }) ∧
    (s.phase = .fault →
      exec (.absorb v0 v1) s = .next { s with
        outbox := s.outbox ++ [responseWord .fault (s.cause.setWidth 128)] })

/-- R103: FINAL in full: steps 4 to 7 when no block is owed; SEQUENCE in IDLE, in DONE and while
blocks are owed; in FAULT phase as R122. -/
def Obligations.FinalBehaviour : Prop :=
  ∀ s : State,
    (s.phase = .absorbing → s.cnt = 0 →
      let t0 := s.regs.w0 ^^^ s.len
      let t1 := s.regs.w1 ^^^ t0
      let t2 := add32 s.regs.w2 t1
      let t3 := s.regs.w3 ^^^ t2
      let f0 := add32 (rotl32 t0 9) (rotl32 t2 17)
      let f1 := rotl32 t1 13 ^^^ rotl32 t3 19
      let f2 := add32 (rotl32 t2 17) f0
      let f3 := rotl32 t3 19 ^^^ f1
      exec .final s = .next { s with
        regs := ⟨f0, f1, f2, f3⟩
        phase := .done
        outbox := s.outbox ++ [responseWord .digest (f3 ++ f2 ++ f1 ++ f0)] }) ∧
    ((s.phase = .idle ∨ s.phase = .done ∨ (s.phase = .absorbing ∧ s.cnt ≠ 0)) →
      exec .final s = .next { s with
        phase := .fault
        cause := 2
        outbox := s.outbox ++ [responseWord .fault 2] }) ∧
    (s.phase = .fault →
      exec .final s = .next { s with
        outbox := s.outbox ++ [responseWord .fault (s.cause.setWidth 128)] })

/-- R104: RDDIG in full: the held digest in DONE, with no state written; SEQUENCE in IDLE and
ABSORBING; in FAULT phase as R122. -/
def Obligations.RddigBehaviour : Prop :=
  ∀ s : State,
    (s.phase = .done →
      exec .rddig s = .next { s with
        outbox := s.outbox ++
          [responseWord .digest (s.regs.w3 ++ s.regs.w2 ++ s.regs.w1 ++ s.regs.w0)] }) ∧
    ((s.phase = .idle ∨ s.phase = .absorbing) →
      exec .rddig s = .next { s with
        phase := .fault
        cause := 2
        outbox := s.outbox ++ [responseWord .fault 2] }) ∧
    (s.phase = .fault →
      exec .rddig s = .next { s with
        outbox := s.outbox ++ [responseWord .fault (s.cause.setWidth 128)] })

/-- 42_control.md R121 and 10_state.md R27: RDSTAT in every phase answers STATUS with the view's
fields at their places and writes no state. -/
def Obligations.RdstatBehaviour : Prop :=
  ∀ s : State, ∃ d : BitVec 128,
    exec .rdstat s = .next { s with outbox := s.outbox ++ [responseWord .status d] } ∧
    d.extractLsb' 0 2 =
      (match s.phase with
        | .idle => 0#2
        | .absorbing => 1#2
        | .done => 2#2
        | .fault => 3#2) ∧
    d.extractLsb' 2 2 = 0 ∧
    d.extractLsb' 4 4 = s.cause ∧
    d.extractLsb' 8 24 = 0 ∧
    d.extractLsb' 32 32 = s.len ∧
    d.extractLsb' 64 29 = s.cnt ∧
    d.extractLsb' 93 35 = 0

/-- 40_bitcodec.md R95: ROTL in every phase answers the rotated word and writes no state; its corner
cases (`n = 0` gives the operand, `n = 31` a rotate right by 1, `n = 16` swaps the halves, all zeros
and all ones stay); a word with the opcode of ROTL and a reserved bit set is illegal. -/
def Obligations.RotlBehaviour : Prop :=
  (∀ (value : Word) (n : RotAmount) (s : State),
    exec (.rotl value n) s = .next { s with
      outbox := s.outbox ++ [responseWord .rot (0#96 ++ rotl32 value n)] }) ∧
  (∀ value : Word, rotl32 value 0 = value ∧ rotl32 value 31 = value.rotateRight 1 ∧
    rotl32 value 16 = value.extractLsb' 0 16 ++ value.extractLsb' 16 16) ∧
  (∀ n : RotAmount, rotl32 0 n = 0 ∧ rotl32 0xFFFFFFFF n = 0xFFFFFFFF) ∧
  (∀ w : CommandWord, w.extractLsb' 64 8 = 0x06#8 → w.extractLsb' 37 27 ≠ 0#27 →
    ∃ e, decode w = .error e)

/-- 42_control.md R120: RESET in every phase: IDLE, no cause, `LEN` and `CNT` zero, `S` unspecified
(some value `q`), `IV` and everything else untouched, ACK; a word with its opcode and a nonzero
operand field is not RESET: it faults ILLEGAL_CMD, and in FAULT phase is answered FAULT; and RESET is
the only command that leaves FAULT phase. -/
def Obligations.ResetBehaviour : Prop :=
  (∀ s : State, ∃ (q : Quad) (n : Nat),
    exec .reset s = .next { s with
      regs := q
      len := 0
      cnt := 0
      phase := .idle
      cause := 0
      outbox := s.outbox ++ [responseWord .ack 0]
      fresh := n }) ∧
  (∀ (w : CommandWord) (s : State),
    w.extractLsb' 64 8 = 0x07#8 → w.extractLsb' 0 64 ≠ 0#64 →
    (s.phase ≠ .fault → runWord w s = .next { s with
      phase := .fault
      cause := 3
      outbox := s.outbox ++ [responseWord .fault 3] }) ∧
    (s.phase = .fault → runWord w s = .next { s with
      outbox := s.outbox ++ [responseWord .fault (s.cause.setWidth 128)] })) ∧
  (∀ (i : Instr) (s t : State), s.phase = .fault → exec i s = .next t → t.phase ≠ .fault →
    i = .reset)

/-- R47, R158 (and the corner cases of R95, R104, R121): RDSTAT, ROTL, and RDDIG in DONE, write no
state, and repeating one gives the same response. -/
def Obligations.ReadsAreIdempotent : Prop :=
  ∀ (i : Instr) (s : State), (i.isFree = true ∨ (i = .rddig ∧ s.phase = .done)) →
    ∃ r : ResponseWord,
      exec i s = .next { s with outbox := s.outbox ++ [r] } ∧
      exec i { s with outbox := s.outbox ++ [r] } =
        .next { s with outbox := s.outbox ++ [r] ++ [r] }

/-- 41_mixer.md R109 (the spec's inference "Consequence [derived]: `f3 = rt3 ^ (rt1 ^ rt3) = rt1`"):
after an accepted FINAL the fourth digest word is `rt1`. -/
def Obligations.FinalFourthWord : Prop :=
  ∀ s t : State, s.phase = .absorbing → s.cnt = 0 → exec .final s = .next t →
    t.regs.w3 = rotl32 (s.regs.w1 ^^^ (s.regs.w0 ^^^ s.len)) 13 ∧
    t.regs.w1 = t.regs.w3 ^^^ rotl32 (s.regs.w3 ^^^ add32 s.regs.w2
      (s.regs.w1 ^^^ (s.regs.w0 ^^^ s.len))) 19

/-- 10_state.md R23, R28 (the index is the spec's inference "[derived: from rules R23 and R24]"): an
accepted ABSORB uses up one block owed and moves the block index `LEN / 8 - CNT` on by one, and the
index stays within `LEN / 8` (`CNT` is never more than `LEN / 8`). -/
def Obligations.BlockIndexAdvances : Prop :=
  ∀ (v0 v1 : Word) (s t : State), MeetsInvariants s → s.awaitingReset = false →
    exec (.absorb v0 v1) s = .next t → t.phase = .absorbing →
    t.cnt.toNat + 1 = s.cnt.toNat ∧
    t.len.toNat / 8 - t.cnt.toNat = s.len.toNat / 8 - s.cnt.toNat + 1 ∧
    t.cnt.toNat ≤ t.len.toNat / 8

/-- 41_mixer.md R111 (the spec's inference "[derived: from 40_bitcodec.md rule R90]"): which bits of
the length START folds into each state word: all of them into word 0, the low 24, 16 and 8, moved up
by 8, 16 and 24, into words 1, 2 and 3. -/
def Obligations.LengthFoldKeepsLowBits : Prop :=
  ∀ (iv : Quad) (len : Word),
    (foldLength iv len).w0 = iv.w0 ^^^ len ∧
    (foldLength iv len).w1 = iv.w1 ^^^ (len.extractLsb' 0 24 ++ 0#8) ∧
    (foldLength iv len).w2 = iv.w2 ^^^ (len.extractLsb' 0 16 ++ 0#16) ∧
    (foldLength iv len).w3 = iv.w3 ^^^ (len.extractLsb' 0 8 ++ 0#24)

/-! ### Faults and the phase machine -/

/-- 60_exceptions.md R131 to R133, with the priority of R134: outside FAULT phase a word raises each
fault exactly under the conditions the rules list, and a fault never touches `S`. -/
def Obligations.FaultsExactlyWhen : Prop :=
  ∀ (w : CommandWord) (s : State), s.phase ≠ .fault → ∃ t : State, runWord w s = .next t ∧
    ((t.phase = .fault ∧ t.cause = 1) ↔
      ∃ len, decode w = .ok (.start len) ∧ (s.phase = .idle ∨ s.phase = .done) ∧
        len.toNat % 8 ≠ 0) ∧
    ((t.phase = .fault ∧ t.cause = 2) ↔
      ((∃ len, decode w = .ok (.start len)) ∧ s.phase = .absorbing) ∨
      ((∃ v0 v1, decode w = .ok (.absorb v0 v1)) ∧
        (s.phase = .idle ∨ s.phase = .done ∨ (s.phase = .absorbing ∧ s.cnt = 0))) ∨
      (decode w = .ok .final ∧
        (s.phase = .idle ∨ s.phase = .done ∨ (s.phase = .absorbing ∧ s.cnt ≠ 0))) ∨
      (decode w = .ok .rddig ∧ (s.phase = .idle ∨ s.phase = .absorbing))) ∧
    ((t.phase = .fault ∧ t.cause = 3) ↔ ∃ e, decode w = .error e) ∧
    (t.phase = .fault → t.regs = s.regs)

/-- 60_exceptions.md R135: whatever word takes a fault writes `PHASE` and `CAUSE`, answers FAULT with
the code (1, 2 or 3, R130), and does nothing else. -/
def Obligations.FaultEntryWritesNothingElse : Prop :=
  ∀ (w : CommandWord) (s t : State), s.phase ≠ .fault → runWord w s = .next t →
    t.phase = .fault →
    ∃ c : BitVec 4, (c = 1 ∨ c = 2 ∨ c = 3) ∧
      t = { s with
        phase := .fault
        cause := c
        outbox := s.outbox ++ [responseWord .fault (c.setWidth 128)] }

/-- R134: one fault is reported, ILLEGAL_CMD before SEQUENCE before LEN_UNALIGNED: a misaligned START
during a message is SEQUENCE, a START with a reserved bit set is ILLEGAL_CMD whatever its length,
and in FAULT phase the cause does not change. -/
def Obligations.FaultPriority : Prop :=
  (∀ (len : Word) (s : State), s.phase = .absorbing → len.toNat % 8 ≠ 0 →
    ∃ t, exec (.start len) s = .next t ∧ t.phase = .fault ∧ t.cause = 2) ∧
  (∀ (w : CommandWord) (s : State), s.phase ≠ .fault → w.extractLsb' 64 8 = 0x01#8 →
    w.extractLsb' 32 32 ≠ 0#32 → ∃ t, runWord w s = .next t ∧ t.phase = .fault ∧ t.cause = 3) ∧
  (∀ (w : CommandWord) (s t : State), s.phase = .fault → runWord w s = .next t →
    t.phase = .fault → t.cause = s.cause)

/-- 42_control.md R122: in FAULT phase RESET, RDSTAT and ROTL execute as their own rules say, and
every other word, illegal ones included, leaves the state unchanged and is answered FAULT with the
latched cause. -/
def Obligations.FaultPhaseRefuses : Prop :=
  ∀ (w : CommandWord) (s : State), s.phase = .fault →
    (∀ i, decode w = .ok i → (i = .reset ∨ i.isFree = true) → runWord w s = exec i s) ∧
    ((∀ i, decode w = .ok i → i ≠ .reset ∧ i.isFree = false) →
      runWord w s = .next { s with
        outbox := s.outbox ++ [responseWord .fault (s.cause.setWidth 128)] })

/-- 60_exceptions.md R137: a step leaves FAULT phase only by the RESET command or the reset input
(which go to IDLE with no cause; a power-up makes the state unspecified, log entry 6), and until
then `CAUSE`, `LEN`, `CNT` and `S` stay. -/
def Obligations.FaultLeftOnlyByReset : Prop :=
  ∀ s t : State, s.awaitingReset = false → s.phase = .fault → step s = .next t →
    ((∃ w rest, s.inbox = .command w :: rest ∧ decode w = .ok .reset) ∨
      (∃ rest, s.inbox = .resetInput :: rest)) ∧ t.phase = .idle ∧ t.cause = 0 ∨
    (∃ rest, s.inbox = .powerOn :: rest) ∧ t.awaitingReset = true ∨
    t.phase = .fault ∧ t.cause = s.cause ∧ t.len = s.len ∧ t.cnt = s.cnt ∧ t.regs = s.regs

/-- 42_control.md R123 (the table is the spec's inference "[derived: from 41_mixer.md rules R101 to
R104 and rules R120, R122]"): the next phase and cause of every command in every phase (an accepted
RESET clears the cause, every other accepted command keeps it), and of an illegal word. -/
def Obligations.PhaseMachine : Prop :=
  (∀ (i : Instr) (s : State), ∃ t, exec i s = .next t ∧
    (match phaseTable s.phase (decide (s.cnt ≠ 0)) i with
      | .accepted p => t.phase = p ∧ t.cause = if i = .reset then 0 else s.cause
      | .faults c => t.phase = .fault ∧ t.cause = c.code
      | .refused => t.phase = .fault ∧ t.cause = s.cause)) ∧
  (∀ (w : CommandWord) (e : IllegalWord) (s : State), decode w = .error e →
    ∃ t, runWord w s = .next t ∧ t.phase = .fault ∧
      t.cause = if s.phase = .fault then s.cause else 3)

/-- 60_exceptions.md R136 (the spec's inference "[derived: from rule R135, 42_control.md rules R120 to
R122]"), 10_state.md R21: a DIGEST response comes only from an accepted FINAL or RDDIG, in DONE,
never out of FAULT phase. -/
def Obligations.DigestOnlyInDone : Prop :=
  ∀ (w : CommandWord) (s t : State) (r : ResponseWord), runWord w s = .next t →
    t.outbox = s.outbox ++ [r] → responseKind r = 0x02#8 →
    t.phase = .done ∧ s.phase ≠ .fault ∧ responseData r = digestData t.regs ∧
    (decode w = .ok .final ∨ decode w = .ok .rddig)

/-! ### Responses, steps and runs -/

/-- 30_encoding.md R71: every word, in every state that meets the invariants, is answered by one of
the five kinds, from the commands and with the payload the rule lists. -/
def Obligations.ResponsesByKind : Prop :=
  ∀ (w : CommandWord) (s : State), MeetsInvariants s → s.awaitingReset = false →
    ∃ (t : State) (r : ResponseWord), runWord w s = .next t ∧ t.outbox = s.outbox ++ [r] ∧
    ((r = responseWord .ack 0 ∧
        ((∃ len, decode w = .ok (.start len)) ∨ (∃ v0 v1, decode w = .ok (.absorb v0 v1)) ∨
          decode w = .ok .reset)) ∨
      (r = responseWord .digest (t.regs.w3 ++ t.regs.w2 ++ t.regs.w1 ++ t.regs.w0) ∧
        (decode w = .ok .final ∨ decode w = .ok .rddig)) ∨
      (r = responseWord .status (statusView s) ∧ decode w = .ok .rdstat) ∨
      (∃ value n, r = responseWord .rot (0#96 ++ rotl32 value n) ∧
        decode w = .ok (.rotl value n)) ∨
      (r = responseWord .fault (t.cause.setWidth 128) ∧ t.phase = .fault ∧
        (t.cause = 1 ∨ t.cause = 2 ∨ t.cause = 3)))

/-- 30_encoding.md R75, 20_memory.md R50: a step whose oldest event is a command word runs the decoded
command on the state with that event consumed; an illegal word faults outside FAULT phase and is
answered with the latched cause in it. -/
def Obligations.StepRunsDecodedCommand : Prop :=
  ∀ (w : CommandWord) (rest : List HostEvent) (s : State),
    s.awaitingReset = false → s.inbox = .command w :: rest →
    (∀ i, decode w = .ok i → step s = exec i { s with inbox := rest }) ∧
    (∀ e, decode w = .error e → s.phase ≠ .fault →
      step s = .next { s with
        inbox := rest
        phase := .fault
        cause := 3
        outbox := s.outbox ++ [responseWord .fault 3] }) ∧
    (∀ e, decode w = .error e → s.phase = .fault →
      step s = .next { s with
        inbox := rest
        outbox := s.outbox ++ [responseWord .fault (s.cause.setWidth 128)] })

/-- The host's placement: the word of any command, placed by `withFetchWord` as the opcode table
numbers its bits, is what the very next step runs. -/
def Obligations.PlacedCommandRunsNext : Prop :=
  ∀ (i : Instr) (s : State),
    decodeTableWord 72 (encode i).toNat = some i ∧
    step (s.withFetchWord 72 (encode i).toNat) = exec i { s with awaitingReset := false }

/-- 30_encoding.md R72: `k` command words are `k` steps and `k` responses, in command order; a step
that consumes no command word emits nothing. -/
def Obligations.EachCommandAnsweredOnceInOrder : Prop :=
  (∀ (ws : List CommandWord) (rest : List HostEvent) (s : State),
    s.awaitingReset = false → s.inbox = ws.map HostEvent.command ++ rest →
    ∃ rs : List ResponseWord, rs.length = ws.length ∧
      ∀ k : Nat, k ≤ ws.length → ∃ t : State,
        Host.Core.run core k s = .next t ∧
        t.inbox = (ws.drop k).map HostEvent.command ++ rest ∧
        t.outbox = s.outbox ++ rs.take k) ∧
  (∀ s t : State, step s = .next t → (∀ w rest, s.inbox ≠ .command w :: rest) →
    t.outbox = s.outbox)

/-- 70_reset_and_hazards.md R150: the reset input has the effect of RESET (`S` some value, `IV`
untouched), without a response; the RESET command has the same effect, with ACK; and a command
word before the first reset input after power-up, a RESET word included, has no behaviour: the model
stops by name. That last clause is the model's choice (log entry 6, DESIGN CHOICE). -/
def Obligations.ResetInputBehaviour : Prop :=
  (∀ (s : State) (rest : List HostEvent), s.inbox = .resetInput :: rest →
    ∃ (q : Quad) (n : Nat),
      step s = .next { s with
        inbox := rest
        regs := q
        len := 0
        cnt := 0
        phase := .idle
        cause := 0
        awaitingReset := false
        fresh := n } ∧
      exec .reset { s with inbox := rest } = .next { s with
        inbox := rest
        regs := q
        len := 0
        cnt := 0
        phase := .idle
        cause := 0
        outbox := s.outbox ++ [responseWord .ack 0]
        fresh := n }) ∧
  (∀ (s : State) (w : CommandWord) (rest : List HostEvent), s.awaitingReset = true →
    s.inbox = .command w :: rest → step s = .fault .commandBeforeReset)

/-- 60_exceptions.md R146 ("waiting changes no state") and 70_reset_and_hazards.md R150: with nothing
sent a step changes nothing; a power-up leaves the block waiting for the reset input, with `IV` and
the host's side kept (the model's form of it: log entries 1 and 6). -/
def Obligations.WaitingAndPowerUp : Prop :=
  (∀ s : State, s.inbox = [] → step s = .next s) ∧
  (∀ (s : State) (rest : List HostEvent), s.inbox = .powerOn :: rest →
    ∃ t, step s = .next t ∧ t.awaitingReset = true ∧ t.iv = s.iv ∧ t.inbox = rest ∧
      t.outbox = s.outbox)

/-- 20_memory.md R50, 70_reset_and_hazards.md R163: the host may send at any moment: what it sends
behind events already sent changes nothing of the step the block takes, be it a next state or the
model's stop. -/
def Obligations.LateSendsDoNotDisturbAStep : Prop :=
  ∀ (s : State) (e : HostEvent), s.inbox ≠ [] →
    (∀ t, step s = .next t → step (hostSend e s) = .next (hostSend e t)) ∧
    (∀ f, step s = .fault f → step (hostSend e s) = .fault f)

/-! ### Invariants and whole-machine rules -/

/-- 10_state.md R34, on the values the spec gives, and R35: the reset state has them and meets the
invariants. (`S` is not mentioned: its value there is the model's, log entry 3.) -/
def Obligations.ResetStateMeetsInvariant : Prop :=
  State.reset.phase = .idle ∧ State.reset.cause = 0 ∧ State.reset.len = 0 ∧
  State.reset.cnt = 0 ∧ State.reset.iv = Config.iv ∧ MeetsInvariants State.reset

/-- 10_state.md R35 (the spec's inference "[derived: by induction over 30_encoding.md rule R75]"): every
step, from any state that meets the invariants, whatever the host has sent, leads to one that
does. -/
def Obligations.StepKeepsInvariant : Prop :=
  ∀ s t : State, MeetsInvariants s → step s = .next t → MeetsInvariants t

/-- 70_reset_and_hazards.md R157: no step writes `IV`. -/
def Obligations.IvNeverChanges : Prop :=
  ∀ s t : State, step s = .next t → t.iv = s.iv

/-- 10_state.md R34 ("must not let a response depend on it"), R35 item 6, 60_exceptions.md R136: two
instances that differ at most in an `S` that is not in use answer every event alike and go on
differing at most so. -/
def Obligations.HiddenSNeverObservable : Prop :=
  ∀ s t : State, AgreeUpToHiddenS s t →
    (∀ s', step s = .next s' → ∃ t', step t = .next t' ∧ AgreeUpToHiddenS s' t' ∧
      t'.outbox = s'.outbox) ∧
    (∀ f, step s = .fault f → step t = .fault f)

/-- 10_state.md R36 (the spec's inference "[derived: from 40_bitcodec.md rule R95, ...]"), the columns
of writes: what each command leaves unchanged, and that a command that ends in FAULT phase from
another phase wrote only `PHASE` and `CAUSE`. -/
def Obligations.AccessTableWrites : Prop :=
  ∀ (i : Instr) (s : State), ∃ t, exec i s = .next t ∧
    t.iv = s.iv ∧ t.inbox = s.inbox ∧ t.awaitingReset = s.awaitingReset ∧
    (i ≠ .reset → t.fresh = s.fresh) ∧
    ((∀ len, i ≠ .start len) → (∀ v0 v1, i ≠ .absorb v0 v1) → i ≠ .final → i ≠ .reset →
      t.regs = s.regs) ∧
    ((∀ len, i ≠ .start len) → i ≠ .reset → t.len = s.len) ∧
    ((∀ len, i ≠ .start len) → (∀ v0 v1, i ≠ .absorb v0 v1) → i ≠ .reset → t.cnt = s.cnt) ∧
    ((∀ len, i ≠ .start len) → i ≠ .final → i ≠ .reset →
      t.phase = s.phase ∨ t.phase = .fault) ∧
    (i ≠ .reset → t.cause = s.cause ∨ t.phase = .fault) ∧
    (t.phase = .fault → t.regs = s.regs ∧ t.len = s.len ∧ t.cnt = s.cnt)

/-- 10_state.md R36, the columns of reads: outside FAULT phase a command's effect and response do not
depend on a register its row does not read; ROTL and RESET do not depend on the phase either. -/
def Obligations.AccessTableReads : Prop :=
  ∀ (i : Instr) (s t : State), exec i s = .next t →
    (s.phase ≠ .fault → (∀ len, i ≠ .start len) → ∀ iv : Quad,
      exec i { s with iv := iv } = .next { t with iv := iv }) ∧
    (s.phase ≠ .fault → (∀ v0 v1, i ≠ .absorb v0 v1) → i ≠ .final → i ≠ .rddig → ∀ q : Quad,
      ∃ q', exec i { s with regs := q } = .next { t with regs := q' }) ∧
    (s.phase ≠ .fault → i ≠ .final → i ≠ .rdstat → ∀ len : Word,
      ∃ len', exec i { s with len := len } = .next { t with len := len' }) ∧
    (s.phase ≠ .fault → (∀ v0 v1, i ≠ .absorb v0 v1) → i ≠ .final → i ≠ .rdstat →
      ∀ cnt : BlockCount, ∃ cnt', exec i { s with cnt := cnt } = .next { t with cnt := cnt' }) ∧
    (s.phase ≠ .fault → i ≠ .rdstat → ∀ cause : BitVec 4,
      ∃ cause', exec i { s with cause := cause } = .next { t with cause := cause' }) ∧
    ((i = .reset ∨ ∃ value n, i = .rotl value n) → ∀ p : Phase,
      ∃ p', exec i { s with phase := p } = .next { t with phase := p' })

/-! ### The mixer as a whole -/

/-- 41_mixer.md R100, 00_scope.md R2, 20_memory.md R45: `Mix` is defined exactly on lengths that are a
multiple of 8 below 2^32, and its output is always exactly 16 bytes. -/
def Obligations.MixGivesSixteenBytes : Prop :=
  ∀ (iv : Quad) (msg : List Byte),
    ((mix iv msg).isSome = true ↔ msg.length % 8 = 0 ∧ msg.length < 2 ^ 32) ∧
    ∀ out, mix iv msg = some out → out.length = 16

/-- 41_mixer.md R105 (the spec's inference "[derived: START performs steps 1 and 2 of rule R100 on
`S`; ...]"): from IDLE or DONE, the commands of `MIX M`, with any RDSTAT and ROTL commands in
between, are each answered, raise no fault, are acknowledged, and FINAL's digest is `Mix(IV, M)`; the
block ends in DONE with that length and no block owed. -/
def Obligations.MixCommandsComputeMix : Prop :=
  ∀ (s : State) (msg : List Byte) (cmds : List Instr) (rest : List HostEvent),
    s.awaitingReset = false → (s.phase = .idle ∨ s.phase = .done) →
    msg.length % 8 = 0 → msg.length ≤ 2 ^ 32 - 8 →
    cmds.filter (fun i => !i.isFree) = mixCommands msg →
    s.inbox = cmds.map (fun i => HostEvent.command (encode i)) ++ rest →
    ∃ (t : State) (rs : List ResponseWord),
      Host.Core.run core cmds.length s = .next t ∧
      t.phase = .done ∧ t.len.toNat = msg.length ∧ t.cnt = 0 ∧ t.cause = s.cause ∧
      t.inbox = rest ∧ t.outbox = s.outbox ++ rs ∧ rs.length = cmds.length ∧
      ∀ (k : Nat) (i : Instr) (r : ResponseWord), cmds[k]? = some i → rs[k]? = some r →
        responseKind r ≠ 0xFF#8 ∧
        ((∃ len, i = .start len) ∨ (∃ v0 v1, i = .absorb v0 v1) → r = responseWord .ack 0) ∧
        (i = .final → responseKind r = 0x02#8 ∧
          mix s.iv msg = some (digestBytes (responseData r)))

/-- 41_mixer.md R106 (the spec's inference "[derived: from rule R105]"), 10_state.md R30: two runs of
`MIX M` under one `IV`, on one instance or two, whatever was digested before, end in the same
DIGEST response. -/
def Obligations.MixIsDeterministic : Prop :=
  ∀ (s u : State) (msg : List Byte) (rest rest' : List HostEvent),
    s.awaitingReset = false → u.awaitingReset = false → s.iv = u.iv →
    (s.phase = .idle ∨ s.phase = .done) → (u.phase = .idle ∨ u.phase = .done) →
    msg.length % 8 = 0 → msg.length ≤ 2 ^ 32 - 8 →
    s.inbox = (mixCommands msg).map (fun i => HostEvent.command (encode i)) ++ rest →
    u.inbox = (mixCommands msg).map (fun i => HostEvent.command (encode i)) ++ rest' →
    ∃ (s' u' : State) (r : ResponseWord),
      Host.Core.run core (mixCommands msg).length s = .next s' ∧
      Host.Core.run core (mixCommands msg).length u = .next u' ∧
      s'.outbox.getLast? = some r ∧ u'.outbox.getLast? = some r ∧ responseKind r = 0x02#8

/-- 70_reset_and_hazards.md R160 with 41_mixer.md R105: the digest run of a message's own blocks and
FINAL succeeds with `Mix(IV, M)`. -/
def Obligations.DigestRunSucceedsWithMix : Prop :=
  ∀ (s t : State) (msg : List Byte), (s.phase = .idle ∨ s.phase = .done) →
    msg.length % 8 = 0 → msg.length ≤ 2 ^ 32 - 8 →
    exec (.start (BitVec.ofNat 32 msg.length)) s = .next t →
    ∃ bytes, mix s.iv msg = some bytes ∧
      digestRun ((blockCommands msg ++ [Instr.final]).map encode) t = .succeeded bytes

/-- 70_reset_and_hazards.md R153, R160, 60_exceptions.md R132: after a START that declared `len`
bytes, a run with any other number of blocks than `len / 8` before FINAL fails. -/
def Obligations.WrongBlockCountFails : Prop :=
  ∀ (s t : State) (len : Word) (blocks : List (Word × Word)),
    (s.phase = .idle ∨ s.phase = .done) → len.toNat % 8 = 0 →
    exec (.start len) s = .next t → blocks.length ≠ len.toNat / 8 →
    digestRun ((blocks.map (fun b : Word × Word => Instr.absorb b.1 b.2) ++ [Instr.final]).map encode) t
      = .failed
end

