-- ==== Sys2Proof/Laws/State.lean ====
section
/-!
SUPPORT. What each state update leaves in each field, one lemma per field, so that no later proof
unfolds a record update.
-/
namespace Sys2Proof.Machine

/-! `respond` appends one response word. -/

@[simp] theorem respond_iv (k : ResponseKind) (data : BitVec 128) (s : State) :
    (respond k data s).iv = s.iv := rfl
@[simp] theorem respond_regs (k : ResponseKind) (data : BitVec 128) (s : State) :
    (respond k data s).regs = s.regs := rfl
@[simp] theorem respond_len (k : ResponseKind) (data : BitVec 128) (s : State) :
    (respond k data s).len = s.len := rfl
@[simp] theorem respond_cnt (k : ResponseKind) (data : BitVec 128) (s : State) :
    (respond k data s).cnt = s.cnt := rfl
@[simp] theorem respond_phase (k : ResponseKind) (data : BitVec 128) (s : State) :
    (respond k data s).phase = s.phase := rfl
@[simp] theorem respond_cause (k : ResponseKind) (data : BitVec 128) (s : State) :
    (respond k data s).cause = s.cause := rfl
@[simp] theorem respond_inbox (k : ResponseKind) (data : BitVec 128) (s : State) :
    (respond k data s).inbox = s.inbox := rfl
@[simp] theorem respond_outbox (k : ResponseKind) (data : BitVec 128) (s : State) :
    (respond k data s).outbox = s.outbox ++ [responseWord k data] := rfl
@[simp] theorem respond_awaitingReset (k : ResponseKind) (data : BitVec 128) (s : State) :
    (respond k data s).awaitingReset = s.awaitingReset := rfl
@[simp] theorem respond_fresh (k : ResponseKind) (data : BitVec 128) (s : State) :
    (respond k data s).fresh = s.fresh := rfl

/-! `raiseFault` writes `PHASE`, `CAUSE` and one response (60_exceptions.md R135). -/

@[simp] theorem raiseFault_iv (c : FaultCause) (s : State) :
    (raiseFault c s).iv = s.iv := rfl
@[simp] theorem raiseFault_regs (c : FaultCause) (s : State) :
    (raiseFault c s).regs = s.regs := rfl
@[simp] theorem raiseFault_len (c : FaultCause) (s : State) :
    (raiseFault c s).len = s.len := rfl
@[simp] theorem raiseFault_cnt (c : FaultCause) (s : State) :
    (raiseFault c s).cnt = s.cnt := rfl
@[simp] theorem raiseFault_phase (c : FaultCause) (s : State) :
    (raiseFault c s).phase = Phase.fault := rfl
@[simp] theorem raiseFault_cause (c : FaultCause) (s : State) :
    (raiseFault c s).cause = c.code := rfl
@[simp] theorem raiseFault_inbox (c : FaultCause) (s : State) :
    (raiseFault c s).inbox = s.inbox := rfl
@[simp] theorem raiseFault_outbox (c : FaultCause) (s : State) :
    (raiseFault c s).outbox = s.outbox ++ [responseWord .fault (c.code.setWidth 128)] := rfl
@[simp] theorem raiseFault_awaitingReset (c : FaultCause) (s : State) :
    (raiseFault c s).awaitingReset = s.awaitingReset := rfl
@[simp] theorem raiseFault_fresh (c : FaultCause) (s : State) :
    (raiseFault c s).fresh = s.fresh := rfl

/-! `refuseLatched` answers and writes nothing (42_control.md R122). -/

@[simp] theorem refuseLatched_iv (s : State) :
    (refuseLatched s).iv = s.iv := rfl
@[simp] theorem refuseLatched_regs (s : State) :
    (refuseLatched s).regs = s.regs := rfl
@[simp] theorem refuseLatched_len (s : State) :
    (refuseLatched s).len = s.len := rfl
@[simp] theorem refuseLatched_cnt (s : State) :
    (refuseLatched s).cnt = s.cnt := rfl
@[simp] theorem refuseLatched_phase (s : State) :
    (refuseLatched s).phase = s.phase := rfl
@[simp] theorem refuseLatched_cause (s : State) :
    (refuseLatched s).cause = s.cause := rfl
@[simp] theorem refuseLatched_inbox (s : State) :
    (refuseLatched s).inbox = s.inbox := rfl
@[simp] theorem refuseLatched_outbox (s : State) :
    (refuseLatched s).outbox = s.outbox ++ [responseWord .fault (s.cause.setWidth 128)] := rfl
@[simp] theorem refuseLatched_awaitingReset (s : State) :
    (refuseLatched s).awaitingReset = s.awaitingReset := rfl
@[simp] theorem refuseLatched_fresh (s : State) :
    (refuseLatched s).fresh = s.fresh := rfl

/-! `enterReset` (10_state.md R34). -/

@[simp] theorem enterReset_iv (s : State) :
    (enterReset s).iv = s.iv := rfl
@[simp] theorem enterReset_regs (s : State) :
    (enterReset s).regs = freeQuad s.fresh := rfl
@[simp] theorem enterReset_len (s : State) :
    (enterReset s).len = 0 := rfl
@[simp] theorem enterReset_cnt (s : State) :
    (enterReset s).cnt = 0 := rfl
@[simp] theorem enterReset_phase (s : State) :
    (enterReset s).phase = Phase.idle := rfl
@[simp] theorem enterReset_cause (s : State) :
    (enterReset s).cause = 0 := rfl
@[simp] theorem enterReset_inbox (s : State) :
    (enterReset s).inbox = s.inbox := rfl
@[simp] theorem enterReset_outbox (s : State) :
    (enterReset s).outbox = s.outbox := rfl
@[simp] theorem enterReset_awaitingReset (s : State) :
    (enterReset s).awaitingReset = s.awaitingReset := rfl
@[simp] theorem enterReset_fresh (s : State) :
    (enterReset s).fresh = s.fresh + 4 := rfl

/-! `assertResetInput` (70_reset_and_hazards.md R150). -/

@[simp] theorem assertResetInput_iv (s : State) :
    (assertResetInput s).iv = s.iv := rfl
@[simp] theorem assertResetInput_regs (s : State) :
    (assertResetInput s).regs = freeQuad s.fresh := rfl
@[simp] theorem assertResetInput_len (s : State) :
    (assertResetInput s).len = 0 := rfl
@[simp] theorem assertResetInput_cnt (s : State) :
    (assertResetInput s).cnt = 0 := rfl
@[simp] theorem assertResetInput_phase (s : State) :
    (assertResetInput s).phase = Phase.idle := rfl
@[simp] theorem assertResetInput_cause (s : State) :
    (assertResetInput s).cause = 0 := rfl
@[simp] theorem assertResetInput_inbox (s : State) :
    (assertResetInput s).inbox = s.inbox := rfl
@[simp] theorem assertResetInput_outbox (s : State) :
    (assertResetInput s).outbox = s.outbox := rfl
@[simp] theorem assertResetInput_awaitingReset (s : State) :
    (assertResetInput s).awaitingReset = false := rfl
@[simp] theorem assertResetInput_fresh (s : State) :
    (assertResetInput s).fresh = s.fresh + 4 := rfl

/-! `applyPower` (log entry 6). -/

@[simp] theorem applyPower_iv (s : State) :
    (applyPower s).iv = s.iv := rfl
@[simp] theorem applyPower_regs (s : State) :
    (applyPower s).regs = freeQuad s.fresh := rfl
@[simp] theorem applyPower_len (s : State) :
    (applyPower s).len = Config.freeWord (s.fresh + 4) := rfl
@[simp] theorem applyPower_cnt (s : State) :
    (applyPower s).cnt = (Config.freeWord (s.fresh + 5)).setWidth 29 := rfl
@[simp] theorem applyPower_phase (s : State) :
    (applyPower s).phase = Phase.ofCode ((Config.freeWord (s.fresh + 6)).setWidth 2) := rfl
@[simp] theorem applyPower_cause (s : State) :
    (applyPower s).cause = (Config.freeWord (s.fresh + 7)).setWidth 4 := rfl
@[simp] theorem applyPower_inbox (s : State) :
    (applyPower s).inbox = s.inbox := rfl
@[simp] theorem applyPower_outbox (s : State) :
    (applyPower s).outbox = s.outbox := rfl
@[simp] theorem applyPower_awaitingReset (s : State) :
    (applyPower s).awaitingReset = true := rfl
@[simp] theorem applyPower_fresh (s : State) :
    (applyPower s).fresh = s.fresh + 8 := rfl

/-! `hostSend` appends one event. -/

@[simp] theorem hostSend_iv (e : HostEvent) (s : State) :
    (hostSend e s).iv = s.iv := rfl
@[simp] theorem hostSend_regs (e : HostEvent) (s : State) :
    (hostSend e s).regs = s.regs := rfl
@[simp] theorem hostSend_len (e : HostEvent) (s : State) :
    (hostSend e s).len = s.len := rfl
@[simp] theorem hostSend_cnt (e : HostEvent) (s : State) :
    (hostSend e s).cnt = s.cnt := rfl
@[simp] theorem hostSend_phase (e : HostEvent) (s : State) :
    (hostSend e s).phase = s.phase := rfl
@[simp] theorem hostSend_cause (e : HostEvent) (s : State) :
    (hostSend e s).cause = s.cause := rfl
@[simp] theorem hostSend_inbox (e : HostEvent) (s : State) :
    (hostSend e s).inbox = s.inbox ++ [e] := rfl
@[simp] theorem hostSend_outbox (e : HostEvent) (s : State) :
    (hostSend e s).outbox = s.outbox := rfl
@[simp] theorem hostSend_awaitingReset (e : HostEvent) (s : State) :
    (hostSend e s).awaitingReset = s.awaitingReset := rfl
@[simp] theorem hostSend_fresh (e : HostEvent) (s : State) :
    (hostSend e s).fresh = s.fresh := rfl

end Sys2Proof.Machine
end

