-- ==== Sys2Proof/Laws/Ops.lean ====
section
/-!
SUPPORT. What each shared operation can do, once: response words read back, the guard's three cases,
the codes of causes and phases, the host's stream.
-/
namespace Sys2Proof.Machine

/-- The kind of a response word is the code it was made with. -/
@[simp] theorem responseKind_responseWord (k : ResponseKind) (d : BitVec 128) :
    responseKind (responseWord k d) = k.code :=
  BitVec.extractLsb'_append_eq_left

/-- The payload of a response word is the one it was made with. -/
@[simp] theorem responseData_responseWord (k : ResponseKind) (d : BitVec 128) :
    responseData (responseWord k d) = d :=
  BitVec.extractLsb'_append_eq_right

/-- No two kinds have one code. -/
theorem ResponseKind.code_injective {a b : ResponseKind} (h : a.code = b.code) : a = b := by
  cases a <;> cases b <;> first | rfl | (exact absurd h (by decide))

/-- The phase a code names has that code. -/
@[simp] theorem Phase.ofCode_code (p : Phase) : Phase.ofCode p.code = p := by
  cases p <;> rfl

/-- Every 2-bit value is the code of a phase. -/
@[simp] theorem Phase.code_ofCode (c : BitVec 2) : (Phase.ofCode c).code = c := by
  revert c; decide

/-- No cause has code 0. -/
@[simp] theorem FaultCause.code_ne_zero (c : FaultCause) : c.code ≠ 0#4 := by
  cases c <;> decide

/-- Causes are 1, 2 and 3. -/
theorem FaultCause.code_le (c : FaultCause) : c.code.toNat ≤ 3 := by
  cases c <;> decide

/-- In FAULT phase the guard answers the latched cause. -/
theorem guarded_in_fault {f : Option FaultCause} {e s : State} (h : s.phase = .fault) :
    guarded f e s = refuseLatched s := by
  simp [guarded, h]

/-- Outside FAULT phase the guard takes the command's own fault. -/
theorem guarded_faults {c : FaultCause} {e s : State} (h : s.phase ≠ .fault) :
    guarded (some c) e s = raiseFault c s := by
  simp [guarded, h]

/-- Outside FAULT phase a command without a fault has its effect. -/
theorem guarded_accepts {e s : State} (h : s.phase ≠ .fault) :
    guarded none e s = e := by
  simp [guarded, h]

/-- Everything the guard can do. -/
theorem guarded_cases (f : Option FaultCause) (e s : State) :
    (s.phase = .fault ∧ guarded f e s = refuseLatched s) ∨
    (s.phase ≠ .fault ∧ ∃ c, f = some c ∧ guarded f e s = raiseFault c s) ∨
    (s.phase ≠ .fault ∧ f = none ∧ guarded f e s = e) := by
  by_cases h : s.phase = .fault
  · exact .inl ⟨h, guarded_in_fault h⟩
  · cases f with
    | none => exact .inr (.inr ⟨h, rfl, guarded_accepts h⟩)
    | some c => exact .inr (.inl ⟨h, c, rfl, guarded_faults h⟩)

/-- The low bits of a length are zero exactly when it is a multiple of 8 (20_memory.md R45). -/
theorem lenLowBits_eq_zero_iff (len : Word) : lenLowBits len = 0 ↔ len.toNat % 8 = 0 := by
  rw [← BitVec.toNat_inj]
  simp [lenLowBits]

/-- The block count is the length divided by 8 (41_mixer.md R101). -/
theorem blockCount_toNat (len : Word) : (blockCount len).toNat = len.toNat / 8 := by
  simp only [blockCount, BitVec.extractLsb'_toNat, Nat.shiftRight_eq_div_pow]
  have := len.isLt
  omega

/-- A START's fault, case by case. -/
theorem startFault_cases (len : Word) (s : State) :
    ((s.phase = .absorbing ∨ s.phase = .fault) ∧ startFault len s = some .sequence) ∨
    ((s.phase = .idle ∨ s.phase = .done) ∧ len.toNat % 8 ≠ 0 ∧
      startFault len s = some .lenUnaligned) ∨
    ((s.phase = .idle ∨ s.phase = .done) ∧ len.toNat % 8 = 0 ∧ startFault len s = none) := by
  have hl := lenLowBits_eq_zero_iff len
  by_cases h8 : len.toNat % 8 = 0 <;> cases hp : s.phase <;> simp_all [startFault]

/-- An ABSORB's fault, case by case. -/
theorem absorbFault_cases (s : State) :
    (¬(s.phase = .absorbing ∧ s.cnt ≠ 0) ∧ absorbFault s = some .sequence) ∨
    ((s.phase = .absorbing ∧ s.cnt ≠ 0) ∧ absorbFault s = none) := by
  unfold absorbFault
  split
  · exact .inl ⟨by tauto, rfl⟩
  · exact .inr ⟨by tauto, rfl⟩

/-- A FINAL's fault, case by case. -/
theorem finalFault_cases (s : State) :
    (¬(s.phase = .absorbing ∧ s.cnt = 0) ∧ finalFault s = some .sequence) ∨
    ((s.phase = .absorbing ∧ s.cnt = 0) ∧ finalFault s = none) := by
  unfold finalFault
  split
  · exact .inl ⟨by tauto, rfl⟩
  · exact .inr ⟨by tauto, rfl⟩

/-- An RDDIG's fault, case by case. -/
theorem rddigFault_cases (s : State) :
    (s.phase ≠ .done ∧ rddigFault s = some .sequence) ∨
    (s.phase = .done ∧ rddigFault s = none) := by
  by_cases hp : s.phase = .done <;> simp [rddigFault, hp]

/-- Nothing sent, nothing to consume. -/
theorem nextEvent_nil {s : State} (h : s.inbox = []) : nextEvent s = none := by
  simp [nextEvent, h]

/-- The oldest event is consumed. -/
theorem nextEvent_cons {s : State} {e : HostEvent} {rest : List HostEvent}
    (h : s.inbox = e :: rest) : nextEvent s = some (e, { s with inbox := rest }) := by
  simp [nextEvent, h]

end Sys2Proof.Machine
end

