-- ==== Sys2Proof/Laws/Exec.lean ====
section
/-!
SUPPORT. What executing a command, a word, an event and a step can do, once, for the proofs that
would otherwise unfold the meanings.
-/
namespace Sys2Proof.Machine

/-- The only states a command can lead to: it is refused in FAULT phase, takes its fault, or is
accepted with its own effect. -/
theorem exec_cases (i : Instr) (s : State) :
    (s.phase = .fault ∧ exec i s = .next (refuseLatched s)) ∨
    (s.phase ≠ .fault ∧ ∃ c, c ≠ .illegalCmd ∧ exec i s = .next (raiseFault c s)) ∨
    (∃ len, i = .start len ∧ (s.phase = .idle ∨ s.phase = .done) ∧ len.toNat % 8 = 0 ∧
      exec i s = .next (respond .ack 0
        { s with
          regs := foldLength s.iv len
          len := len
          cnt := blockCount len
          phase := .absorbing })) ∨
    (∃ v0 v1, i = .absorb v0 v1 ∧ s.phase = .absorbing ∧ s.cnt ≠ 0 ∧
      exec i s = .next (respond .ack 0
        { s with regs := mixRound s.regs v0 v1, cnt := s.cnt - 1 })) ∨
    (i = .final ∧ s.phase = .absorbing ∧ s.cnt = 0 ∧
      exec i s = .next (respond .digest (digestData (finalize s.regs s.len))
        { s with regs := finalize s.regs s.len, phase := .done })) ∨
    (i = .rddig ∧ s.phase = .done ∧
      exec i s = .next (respond .digest (digestData s.regs) s)) ∨
    (i = .rdstat ∧ exec i s = .next (respond .status (statusView s) s)) ∨
    (∃ value n, i = .rotl value n ∧
      exec i s = .next (respond .rot ((rotl32 value n).setWidth 128) s)) ∨
    (i = .reset ∧ exec i s = .next (respond .ack 0 (enterReset s))) := by
  by_cases hf : s.phase = .fault
  · cases i <;> simp [exec, execStart, execAbsorb, execFinal, execRddig, execRdstat, execRotl,
      execReset, guarded, hf]
  · cases i with
    | start len =>
      rcases startFault_cases len s with ⟨hp, h⟩ | ⟨hp, h8, h⟩ | ⟨hp, h8, h⟩
      · exact .inr (.inl ⟨hf, .sequence, by decide, by simp [exec, execStart, guarded, hf, h]⟩)
      · exact .inr (.inl ⟨hf, .lenUnaligned, by decide, by simp [exec, execStart, guarded, hf, h]⟩)
      · exact .inr (.inr (.inl ⟨len, rfl, hp, h8, by simp [exec, execStart, guarded, hf, h]⟩))
    | absorb v0 v1 =>
      rcases absorbFault_cases s with ⟨hp, h⟩ | ⟨hp, h⟩
      · exact .inr (.inl ⟨hf, .sequence, by decide, by simp [exec, execAbsorb, guarded, hf, h]⟩)
      · exact .inr (.inr (.inr (.inl
          ⟨v0, v1, rfl, hp.1, hp.2, by simp [exec, execAbsorb, guarded, hf, h]⟩)))
    | final =>
      rcases finalFault_cases s with ⟨hp, h⟩ | ⟨hp, h⟩
      · exact .inr (.inl ⟨hf, .sequence, by decide, by simp [exec, execFinal, guarded, hf, h]⟩)
      · exact .inr (.inr (.inr (.inr (.inl
          ⟨rfl, hp.1, hp.2, by simp [exec, execFinal, guarded, hf, h]⟩))))
    | rddig =>
      rcases rddigFault_cases s with ⟨hp, h⟩ | ⟨hp, h⟩
      · exact .inr (.inl ⟨hf, .sequence, by decide, by simp [exec, execRddig, guarded, hf, h]⟩)
      · exact .inr (.inr (.inr (.inr (.inr (.inl
          ⟨rfl, hp, by simp [exec, execRddig, guarded, hf, h]⟩)))))
    | rdstat => exact .inr (.inr (.inr (.inr (.inr (.inr (.inl ⟨rfl, rfl⟩))))))
    | rotl value n =>
      exact .inr (.inr (.inr (.inr (.inr (.inr (.inr (.inl ⟨value, n, rfl, rfl⟩)))))))
    | reset => exact .inr (.inr (.inr (.inr (.inr (.inr (.inr (.inr ⟨rfl, rfl⟩)))))))

/-- A decoded word runs its command. -/
theorem runWord_ok {w : CommandWord} {i : Instr} {s : State} (h : decode w = .ok i) :
    runWord w s = exec i s := by
  simp [runWord, h]

/-- An illegal word is answered or faults. -/
theorem runWord_error {w : CommandWord} {e : IllegalWord} {s : State} (h : decode w = .error e) :
    runWord w s = .next (illegalCommand s) := by
  simp [runWord, h]

/-- An illegal word: the latched cause in FAULT phase, ILLEGAL_CMD outside it. -/
theorem illegalCommand_cases (s : State) :
    (s.phase = .fault ∧ illegalCommand s = refuseLatched s) ∨
    (s.phase ≠ .fault ∧ illegalCommand s = raiseFault .illegalCmd s) := by
  by_cases h : s.phase = .fault
  · exact .inl ⟨h, guarded_in_fault h⟩
  · exact .inr ⟨h, guarded_faults h⟩

/-- Everything a step can do. -/
theorem step_cases (s : State) :
    (s.inbox = [] ∧ step s = .next s) ∨
    (∃ w rest, s.inbox = .command w :: rest ∧ s.awaitingReset = true ∧
      step s = .fault .commandBeforeReset) ∨
    (∃ w rest, s.inbox = .command w :: rest ∧ s.awaitingReset = false ∧
      step s = runWord w { s with inbox := rest }) ∨
    (∃ rest, s.inbox = .resetInput :: rest ∧
      step s = .next (assertResetInput { s with inbox := rest })) ∨
    (∃ rest, s.inbox = .powerOn :: rest ∧
      step s = .next (applyPower { s with inbox := rest })) := by
  rcases h : s.inbox with _ | ⟨e, rest⟩
  · exact .inl ⟨rfl, by simp [step, stepEvent, nextEvent_nil h]⟩
  · cases e with
    | command w =>
      cases ha : s.awaitingReset with
      | false => exact .inr (.inr (.inl ⟨w, rest, rfl, rfl, by
          simp [step, stepEvent, nextEvent_cons h, runEvent, ha]⟩))
      | true => exact .inr (.inl ⟨w, rest, rfl, rfl, by
          simp [step, stepEvent, nextEvent_cons h, runEvent, ha]⟩)
    | resetInput => exact .inr (.inr (.inr (.inl ⟨rest, rfl, by
        simp [step, stepEvent, nextEvent_cons h, runEvent]⟩)))
    | powerOn => exact .inr (.inr (.inr (.inr ⟨rest, rfl, by
        simp [step, stepEvent, nextEvent_cons h, runEvent]⟩)))

/-- The word the host places is consumed by the very next step. -/
theorem step_placeWord (w : CommandWord) (s : State) :
    step (placeWord w s) = runWord w { s with awaitingReset := false } := by
  simp [step, stepEvent, nextEvent, placeWord, runEvent]

/-- A run of no steps. -/
@[simp] theorem run_zero (s : State) : Host.Core.run core 0 s = .next s := rfl

/-- A run whose first step is a next state goes on from it. -/
theorem run_succ_of_step {s t : State} (k : Nat) (h : step s = .next t) :
    Host.Core.run core (k + 1) s = Host.Core.run core k t := by
  have h' : core.step s = .next t := h
  simp only [Host.Core.run, h']

/-- A word answers one response at the end of the outbox and leaves the host's events, the wait for
the reset input and `IV` alone. -/
theorem runWord_next (w : CommandWord) (s : State) :
    ∃ t r, runWord w s = .next t ∧ t.outbox = s.outbox ++ [r] ∧ t.inbox = s.inbox ∧
      t.awaitingReset = s.awaitingReset ∧ t.iv = s.iv := by
  cases hd : decode w with
  | error e =>
    rcases illegalCommand_cases s with ⟨-, h⟩ | ⟨-, h⟩
    · exact ⟨_, _, runWord_error hd, by rw [h]; rfl, by rw [h]; rfl, by rw [h]; rfl, by rw [h]; rfl⟩
    · exact ⟨_, _, runWord_error hd, by rw [h]; rfl, by rw [h]; rfl, by rw [h]; rfl, by rw [h]; rfl⟩
  | ok i =>
    rw [runWord_ok hd]
    rcases exec_cases i s with ⟨-, h⟩ | ⟨-, c, -, h⟩ | ⟨_, -, -, -, h⟩ | ⟨_, _, -, -, -, h⟩ |
      ⟨-, -, -, h⟩ | ⟨-, -, h⟩ | ⟨-, h⟩ | ⟨_, _, -, h⟩ | ⟨-, h⟩
    all_goals exact ⟨_, _, h, rfl, rfl, rfl, rfl⟩

end Sys2Proof.Machine
end

