-- ==== Sys2Proof/Laws/PerInstr.lean ====
section
/-!
SUPPORT. One statement per command: its word selects the row of the opcode table that has its
mnemonic (30_encoding.md R62, R68).
-/
namespace Sys2Proof.Laws.EncodesInRow

/-- The command's word selects its own row of the opcode table. -/
def Statement (i : Instr) : Prop :=
  ∃ r ∈ opcodeTable, r.mnemonic = i.mnemonic ∧ r.accepts (encode i) = true

theorem start (len : Word) : Statement (.start len) := by
  refine ⟨⟨"START", 0xFFFFFFFFFF00000000#72, 0x010000000000000000#72⟩, by decide, rfl, ?_⟩
  have hm : (0xFFFFFFFFFF00000000#72 : BitVec (8 + 32 + 32)) = 0xFF#8 ++ 0xFFFFFFFF#32 ++ 0#32 := by
    decide
  have h : encode (.start len) &&& 0xFFFFFFFFFF00000000#72 = 0x010000000000000000#72 := by
    show (0x01#8 ++ 0#32 ++ len) &&& (0xFFFFFFFFFF00000000#72 : BitVec (8 + 32 + 32)) = _
    rw [hm, BitVec.and_append, BitVec.and_append]
    simp
  simp [OpcodeRow.accepts, h]

theorem absorb (v0 v1 : Word) : Statement (.absorb v0 v1) := by
  refine ⟨⟨"ABSORB", 0xFF0000000000000000#72, 0x020000000000000000#72⟩, by decide, rfl, ?_⟩
  have hm : (0xFF0000000000000000#72 : BitVec (8 + 32 + 32)) = 0xFF#8 ++ 0#32 ++ 0#32 := by
    decide
  have h : encode (.absorb v0 v1) &&& 0xFF0000000000000000#72 = 0x020000000000000000#72 := by
    show (0x02#8 ++ v1 ++ v0) &&& (0xFF0000000000000000#72 : BitVec (8 + 32 + 32)) = _
    rw [hm, BitVec.and_append, BitVec.and_append]
    simp
  simp [OpcodeRow.accepts, h]

theorem final : Statement .final :=
  ⟨⟨"FINAL", 0xFFFFFFFFFFFFFFFFFF#72, 0x030000000000000000#72⟩, by decide, rfl, by decide⟩

theorem rddig : Statement .rddig :=
  ⟨⟨"RDDIG", 0xFFFFFFFFFFFFFFFFFF#72, 0x040000000000000000#72⟩, by decide, rfl, by decide⟩

theorem rdstat : Statement .rdstat :=
  ⟨⟨"RDSTAT", 0xFFFFFFFFFFFFFFFFFF#72, 0x050000000000000000#72⟩, by decide, rfl, by decide⟩

theorem rotl (value : Word) (n : RotAmount) : Statement (.rotl value n) := by
  refine ⟨⟨"ROTL", 0xFFFFFFFFE000000000#72, 0x060000000000000000#72⟩, by decide, rfl, ?_⟩
  have hm : (0xFFFFFFFFE000000000#72 : BitVec (8 + 27 + 5 + 32)) =
      0xFF#8 ++ 0x7FFFFFF#27 ++ 0#5 ++ 0#32 := by
    decide
  have h : encode (.rotl value n) &&& 0xFFFFFFFFE000000000#72 = 0x060000000000000000#72 := by
    show (0x06#8 ++ 0#27 ++ n ++ value) &&&
      (0xFFFFFFFFE000000000#72 : BitVec (8 + 27 + 5 + 32)) = _
    rw [hm, BitVec.and_append, BitVec.and_append, BitVec.and_append]
    simp
  simp [OpcodeRow.accepts, h]

theorem reset : Statement .reset :=
  ⟨⟨"RESET", 0xFFFFFFFFFFFFFFFFFF#72, 0x070000000000000000#72⟩, by decide, rfl, by decide⟩

end Sys2Proof.Laws.EncodesInRow
end

