-- ==== Sys2Proof/Machine/AsmText.lean ====
section
/-!
DEFINITION. The text of the assembler (30_encoding.md R73, R74; numbers as 00_scope.md R11 writes
them): one command a line, a mnemonic and comma-separated operands, decimal or `0x` hexadecimal
numbers, a semicolon before a comment. What the rules leave open is in log entry 7.
-/
namespace Sys2Proof.Machine

/-- A space, a tab or a carriage return. -/
def isBlank (c : Char) : Bool := c == ' ' || c == '\t' || c == '\r'

/-- The pieces of a text between separators, the empty ones included. -/
def splitOnChar (p : Char → Bool) : List Char → List (List Char)
  | [] => [[]]
  | c :: cs =>
    if p c then [] :: splitOnChar p cs
    else match splitOnChar p cs with
      | [] => [[c]]
      | w :: ws => (c :: w) :: ws

/-- A text without the blanks at its two ends. -/
def trimBlanks (cs : List Char) : List Char :=
  ((cs.dropWhile isBlank).reverse.dropWhile isBlank).reverse

/-- The value of a digit, decimal or hexadecimal in either case. -/
def digitValue (c : Char) : Option Nat :=
  let n := c.toNat
  if 48 ≤ n ∧ n ≤ 57 then some (n - 48)
  else if 65 ≤ n ∧ n ≤ 70 then some (n - 55)
  else if 97 ≤ n ∧ n ≤ 102 then some (n - 87)
  else none

/-- The digits of a numeral below `base`, most significant first, onto what has been read. -/
def digitsOnto (base acc : Nat) : List Char → Option Nat
  | [] => some acc
  | c :: cs =>
    match digitValue c with
    | none => none
    | some d => if d < base then digitsOnto base (acc * base + d) cs else none

/-- A numeral of at least one digit. -/
def numeral (base : Nat) (cs : List Char) : Option Nat :=
  if cs.isEmpty then none else digitsOnto base 0 cs

/-- A number: decimal, or hexadecimal behind `0x` with `_` as a visual separator (R73, R11). -/
def parseNumber : List Char → Option Nat
  | '0' :: 'x' :: cs => numeral 16 (cs.filter fun c => c != '_')
  | cs => numeral 10 cs

/-- A byte of a byte sequence: two hexadecimal digits (R11). -/
def parseByte (cs : List Char) : Option Nat :=
  if cs.length = 2 then numeral 16 cs else none

/-- Comma-separated numbers; none at all where nothing is written. -/
def parseOperands (cs : List Char) : Option (List Nat) :=
  if (trimBlanks cs).isEmpty then some []
  else (splitOnChar (fun c => c == ',') cs).mapM fun w => parseNumber (trimBlanks w)

/-- Bytes separated by blanks. -/
def parseBytes (cs : List Char) : Option (List Nat) :=
  ((splitOnChar isBlank cs).filter fun w => !w.isEmpty).mapM parseByte

/-- A command from its mnemonic and the text of its operands. -/
def parseCommand (m rest : List Char) : Option AsmLine :=
  if m = ['A', 'B', 'S', 'O', 'R', 'B', 'B'] then
    match parseBytes rest with
    | some [b0, b1, b2, b3, b4, b5, b6, b7] => some (.absorbb b0 b1 b2 b3 b4 b5 b6 b7)
    | _ => none
  else if m = ['M', 'I', 'X'] then
    (parseBytes rest).map fun bs => .mix (bs.map (BitVec.ofNat 8))
  else if m = ['S', 'T', 'A', 'R', 'T'] then
    match parseOperands rest with
    | some [len] => some (.start len)
    | _ => none
  else if m = ['A', 'B', 'S', 'O', 'R', 'B'] then
    match parseOperands rest with
    | some [v0, v1] => some (.absorb v0 v1)
    | _ => none
  else if m = ['R', 'O', 'T', 'L'] then
    match parseOperands rest with
    | some [value, n] => some (.rotl value n)
    | _ => none
  else if m = ['.', 'w', 'o', 'r', 'd', '7', '2'] then
    match parseOperands rest with
    | some [x] => some (.word72 x)
    | _ => none
  else if parseOperands rest = some [] then
    if m = ['F', 'I', 'N', 'A', 'L'] then some .final
    else if m = ['R', 'D', 'D', 'I', 'G'] then some .rddig
    else if m = ['R', 'D', 'S', 'T', 'A', 'T'] then some .rdstat
    else if m = ['R', 'E', 'S', 'E', 'T'] then some .reset
    else none
  else none

/-- The words of one line: those of its command, none for a line that is blank or only a comment, and
no result for a line that is neither. -/
def assembleLine (cs : List Char) : Option (List CommandWord) :=
  let line := trimBlanks (cs.takeWhile fun c => c != ';')
  if line.isEmpty then some []
  else (parseCommand (line.takeWhile fun c => !isBlank c)
    (line.dropWhile fun c => !isBlank c)).bind assemble

/-- The words of a program's text, line by line in order; no result if a line has none. -/
def assembleText (cs : List Char) : Option (List CommandWord) :=
  ((splitOnChar (fun c => c == '\n') cs).mapM assembleLine).map List.flatten

/-- A program's words as the host sends them, one after another (20_memory.md R50, R53). -/
def sendProgram (ws : List CommandWord) (s : State) : State :=
  ws.foldl (fun t w => hostSend (.command w) t) s

end Sys2Proof.Machine
end

