-- ==== Sys2Proof/Tests/Slice0.lean ====
section
/-!
SUPPORT. Tests whose expected results are the worked examples of 95_test_vectors.md and of the rules
(named at each test), and for every statement with hypotheses a state and operands that meet them.
-/
namespace Sys2Proof.Tests

open Sys2Proof Sys2Proof.Machine

/-! ### States to test on -/

/-- `IV_A` of 95_test_vectors.md. -/
def ivA : Quad := ⟨0, 0, 0, 0⟩

/-- `IV_B` of 95_test_vectors.md. -/
def ivB : Quad := ⟨0x01234567, 0x89ABCDEF, 0xFEDCBA98, 0x76543210⟩

/-- A state under `IV_B`, nothing sent and nothing answered. -/
def st (p : Phase) (cause : BitVec 4) (len : Word) (cnt : BlockCount) (q : Quad) : State where
  iv := ivB
  regs := q
  len := len
  cnt := cnt
  phase := p
  cause := cause
  inbox := []
  outbox := []
  awaitingReset := false
  fresh := 0

/-- After reset. -/
def idleB : State := st .idle 0 0 0 ivA
/-- A message of 8 bytes, its block still owed (after `START 8`, section 2.4). -/
def owingB : State := st .absorbing 0 8 1 ⟨0x0123456F, 0x89ABC5EF, 0xFED4BA98, 0x7E543210⟩
/-- The empty message, nothing owed (after `START 0`, section 2.4). -/
def paidB : State := st .absorbing 0 0 0 ivB
/-- The empty message's digest held (after FINAL, section 2.6). -/
def doneB : State := st .done 0 0 0 ⟨0xCCCBDCCC, 0x9896989A, 0x530CEB96, 0x11111111⟩
/-- Refused for a misaligned length. -/
def faultB : State := st .fault 1 0 0 ivA

/-- The next state, if there is one. -/
def nextOf (o : Outcome) : Option State :=
  match o with
  | .next s => some s
  | .fault _ => none
  | .refused _ => none

/-- What the tests look at in a next state. -/
structure Seen where
  phase : Phase
  cause : BitVec 4
  len : Word
  cnt : BlockCount
  outbox : List ResponseWord
deriving DecidableEq, Repr

/-- Phase, cause, length, count and the responses given, of a next state. -/
def seen (o : Outcome) : Option Seen :=
  (nextOf o).map fun s => ⟨s.phase, s.cause, s.len, s.cnt, s.outbox⟩

/-! ### Decoding: words written out from 30_encoding.md R63 to R66, section 2.7 -/

/-- Format L bit by bit: op 00000001, 32 reserved zeros, `len` = 0x18. -/
theorem test_decode_start : decode
    0b00000001_00000000000000000000000000000000_00000000000000000000000000011000#72 =
    .ok (.start 0x18) := by rfl

/-- Format B: op 00000010, `v1`, `v0` (section 2.3's block packing). -/
theorem test_decode_absorb : decode
    0b00000010_00000111000001100000010100000100_00000011000000100000000100000000#72 =
    .ok (.absorb 0x03020100 0x07060504) := by rfl

/-- Format N, op 0x03. -/
theorem test_decode_final : decode 0x030000000000000000#72 = .ok .final := by rfl

/-- Format N, op 0x04. -/
theorem test_decode_rddig : decode 0x040000000000000000#72 = .ok .rddig := by rfl

/-- Format N, op 0x05. -/
theorem test_decode_rdstat : decode
    0b00000101_00000000000000000000000000000000_00000000000000000000000000000000#72 =
    .ok .rdstat := by rfl

/-- Format R: op 00000110, 27 reserved zeros, `n` = 11111, `value` all ones. -/
theorem test_decode_rotl : decode
    0b00000110_000000000000000000000000000_11111_11111111111111111111111111111111#72 =
    .ok (.rotl 0xFFFFFFFF 31) := by rfl

/-- Format N, op 0x07. -/
theorem test_decode_reset : decode 0x070000000000000000#72 = .ok .reset := by rfl

/-- Section 2.7: a reserved bit of each format set, lowest and highest. -/
theorem test_reserved_bits_refused :
    [0x010000000100000000#72, 0x018000000000000000#72, 0x030000000000000001#72,
      0x038000000000000000#72, 0x040000000000000002#72, 0x050000000100000000#72,
      0x060000002000000000#72, 0x068000000000000001#72, 0x070000000000000001#72].all
      (fun w => decide ((decode w).toOption = none) && !wordWellFormed w) = true := by decide

/-- Section 2.7 and 30_encoding.md R69: undefined opcodes, all zeros and all ones among them. -/
theorem test_undefined_opcodes_refused :
    [0x000000000000000000#72, 0x080000000000000000#72, 0x100000000000000000#72,
      0x110000000000000018#72, 0x800000000000000000#72, 0xFFFFFFFFFFFFFFFFFF#72].all
      (fun w => decide ((decode w).toOption = none) && !wordWellFormed w) = true := by decide

/-- Section 2.7: the smallest and largest operands of each format are well formed. -/
theorem test_boundary_words_well_formed :
    [0x010000000000000000#72, 0x0100000000FFFFFFFF#72, 0x020000000000000000#72,
      0x02FFFFFFFFFFFFFFFF#72, 0x060000000000000000#72, 0x060000001FFFFFFFFF#72].all
      wordWellFormed = true := by decide

/-- The encoder gives the words of section 2.7 and section 2.2. -/
theorem test_encode :
    encode (.start 0xFFFFFFFF) = 0x0100000000FFFFFFFF ∧
    encode (.absorb 0xCFE56800 0x0000018B) = 0x020000018BCFE56800 ∧
    encode (.rotl 0x80000001 7) = 0x060000000780000001 ∧
    encode .reset = 0x070000000000000000 := by decide

/-- The host's query at the table's 72 bits, and at fewer: the bits above are 0. -/
theorem test_decodeTableWord :
    decodeTableWord 72 0x010000000000000018 = some (.start 0x18) ∧
    decodeTableWord 72 0x060000002000000000 = none ∧
    decodeTableWord 64 0x010000000000000018 = none := by decide

/-! ### Well-formedness of assembler lines: an ill-formed term for each check -/

/-- R73's ranges: each operand one past its range is refused. -/
theorem test_ill_formed_lines_refused :
    [AsmLine.start 0x100000000, .absorb 0x100000000 0, .absorb 0 0x100000000,
      .rotl 0x100000000 0, .rotl 0 32, .word72 0x1000000000000000000,
      .absorbb 0 0 0 256 0 0 0 0, .mix [1, 2, 3, 4, 5, 6, 7]].all
      (fun l => !l.wellFormed && decide (assemble l = none)) = true := by decide

/-- Each operand at the top of its range is accepted. -/
theorem test_well_formed_lines_accepted :
    [AsmLine.start 0xFFFFFFFF, .absorb 0xFFFFFFFF 0xFFFFFFFF, .rotl 0xFFFFFFFF 31,
      .word72 0xFFFFFFFFFFFFFFFFFF, .absorbb 255 255 255 255 255 255 255 255,
      .mix []].all AsmLine.wellFormed = true := by decide

/-- R95's and P7's lines as text, a comment and an empty line (section 3). -/
theorem test_assemble_text :
    assembleText
      "ROTL 0x80000001, 7 ; R95\n\n.word72 0x06_00000020_00000001\nABSORBB 00 68 e5 cf 8b 01 00 00".toList =
    some [0x060000000780000001, 0x060000002000000001, 0x020000018BCFE56800] := by decide

/-- `MIX` of no bytes is START 0 and FINAL (R74); an operand too many or out of range is refused. -/
theorem test_assemble_text_mix_and_refusals :
    assembleText "MIX".toList = some [0x010000000000000000, 0x030000000000000000] ∧
    assembleText "START 4294967296".toList = none ∧
    assembleText "FINAL 0".toList = none ∧
    assembleText "JUMP 0".toList = none := by decide

/-- A program's words reach the block in order (20_memory.md R50). -/
theorem test_send_program :
    ((assembleText "START 0\nFINAL".toList).map fun ws => (sendProgram ws idleB).inbox) =
    some [.command 0x010000000000000000, .command 0x030000000000000000] := by decide

/-! ### Arithmetic: sections 2.1 to 2.3 -/

theorem test_word_arithmetic :
    add32 0xDEADBEEF 0xCAFEBABE = 0xA9AC79AD ∧ add32 0xFFFFFFFF 1 = 0 ∧
    shl32 0x100 24 = 0 ∧ shl32 0x12345678 16 = 0x56780000 ∧ shl32 0xFFFFFFFF 31 = 0x80000000 ∧
    shr32 0x12345678 8 = 0x00123456 ∧ shr32 0x80000000 31 = 1 := by decide

theorem test_rotator :
    rotl32 0xDEADBEEF 19 = 0xF77EF56D ∧ rotl32 0x12345678 0 = 0x12345678 ∧
    rotl32 0x12345678 31 = 0x091A2B3C ∧ rotl32 0x80000000 1 = 1 := by decide

theorem test_little_endian :
    leBytes 0x18BCFE56800 8 = [0x00, 0x68, 0xE5, 0xCF, 0x8B, 0x01, 0x00, 0x00] ∧
    leBytes 0x1122334455667788 4 = [0x88, 0x77, 0x66, 0x55] ∧ leBytes 5 0 = [] ∧
    leWord32 0x04 0x05 0x06 0x07 = 0x07060504 := by decide

/-- Section 2.8: `Mix(IV_B, 00 01 .. 07)` and the empty message. -/
theorem test_mix :
    mix ivB [0, 1, 2, 3, 4, 5, 6, 7] = some [0x9C, 0x4A, 0xA4, 0x63, 0xF2, 0xD9, 0x65, 0x3A,
      0x47, 0xAA, 0x50, 0xCA, 0xE9, 0x52, 0x76, 0x30] ∧
    mix ivB [] = some [0xCC, 0xDC, 0xCB, 0xCC, 0x9A, 0x98, 0x96, 0x98,
      0x96, 0xEB, 0x0C, 0x53, 0x11, 0x11, 0x11, 0x11] ∧
    mix ivB [0] = none := by decide

/-! ### The commands, one step each -/

/-- Section 2.4, `IV_B`, the largest length: `S`, `LEN`, `CNT`, ACK. -/
theorem test_start_largest : nextOf (exec (.start 0xFFFFFFF8) idleB) =
    some { st .absorbing 0 0xFFFFFFF8 0x1FFFFFFF ⟨0xFEDCBA9F, 0x765435EF, 0x0124BA98, 0x8E543210⟩ with
      outbox := [0x0100000000000000000000000000000000] } := by decide

/-- Section 2.9: a misaligned START faults 1 from DONE, 2 during a message, and is answered with the
latched cause in FAULT. -/
theorem test_start_refused :
    seen (exec (.start 12) doneB) =
      some ⟨.fault, 1, 0, 0, [0xFF00000000000000000000000000000001]⟩ ∧
    seen (exec (.start 12) owingB) =
      some ⟨.fault, 2, 8, 1, [0xFF00000000000000000000000000000002]⟩ ∧
    seen (exec (.start 8) faultB) =
      some ⟨.fault, 1, 0, 0, [0xFF00000000000000000000000000000001]⟩ := by decide

/-- R102's example: the sequential round of section 2.5 (the simultaneous and mixed readings give
other words 2 and 3). -/
theorem test_absorb_round : nextOf (exec (.absorb 0x03020100 0x07060504)
    (st .absorbing 0 24 3 ⟨0x0123457F, 0x89ABD5EF, 0xFEC4BA98, 0x6E543210⟩)) =
    some { st .absorbing 0 24 2 ⟨0x70FE73FD, 0xF037FFC7, 0x998C2EA6, 0x6DB6B314⟩ with
      outbox := [0x0100000000000000000000000000000000] } := by decide

/-- Section 2.9: ABSORB with no block owed, and in IDLE. -/
theorem test_absorb_refused :
    seen (exec (.absorb 0 0) paidB) =
      some ⟨.fault, 2, 0, 0, [0xFF00000000000000000000000000000002]⟩ ∧
    seen (exec (.absorb 0 0) idleB) =
      some ⟨.fault, 2, 0, 0, [0xFF00000000000000000000000000000002]⟩ := by decide

/-- Section 2.6, third row: FINAL in sequential reading. -/
theorem test_final : nextOf (exec .final (st .absorbing 0 0x10 0 ⟨1, 2, 3, 4⟩)) =
    some { st .done 0 0x10 0 ⟨0x002C2200, 0x00926000, 0x00582200, 0x00026000⟩ with
      outbox := [0x020002600000582200_00926000002C2200] } := by decide

/-- Program P4: FINAL with a block owed. -/
theorem test_final_short :
    seen (exec .final (st .absorbing 0 16 1 ivA)) =
      some ⟨.fault, 2, 16, 1, [0xFF00000000000000000000000000000002]⟩ := by decide

/-- Section 2.9: RDDIG in DONE writes nothing. -/
theorem test_rddig : nextOf (exec .rddig doneB) =
    some { doneB with outbox := [0x0211111111530CEB969896989ACCCBDCCC] } := by decide

/-- Section 2.9: RDDIG during a message. -/
theorem test_rddig_refused : seen (exec .rddig paidB) =
    some ⟨.fault, 2, 0, 0, [0xFF00000000000000000000000000000002]⟩ := by decide

/-- Section 2.10, last row: every field at its place, in FAULT phase. -/
theorem test_rdstat_fault : nextOf (exec .rdstat (st .fault 2 0xFFFFFFF8 0x1FFFFFFF ivA)) =
    some { st .fault 2 0xFFFFFFF8 0x1FFFFFFF ivA with
      outbox := [0x03000000001FFFFFFFFFFFFFF800000023] } := by decide

/-- Section 2.10, sixth row. -/
theorem test_rdstat_done : seen (exec .rdstat (st .done 0 0x18 0 ivA)) =
    some ⟨.done, 0, 0x18, 0, [0x0300000000000000000000001800000002]⟩ := by decide

/-- R95's example, in FAULT phase (program P3). -/
theorem test_rotl_fault : nextOf (exec (.rotl 0x80000001 7) faultB) =
    some { faultB with outbox := [0x04000000000000000000000000000000C0] } := by decide

/-- Section 2.2: a rotation of 31 during a message. -/
theorem test_rotl_31 : nextOf (exec (.rotl 0x00000001 31) owingB) =
    some { owingB with outbox := [0x0400000000000000000000000080000000] } := by decide

/-- R120's example: RESET leaves FAULT phase and is acknowledged; `IV` stays. -/
theorem test_reset : seen (exec .reset faultB) =
    some ⟨.idle, 0, 0, 0, [0x0100000000000000000000000000000000]⟩ ∧
    (nextOf (exec .reset faultB)).map State.iv = some ivB := by decide

/-- Section 2.9: RESET with a nonzero operand field is no RESET, in IDLE and in FAULT. -/
theorem test_reset_with_operand :
    seen (runWord 0x070000000000000001 idleB) =
      some ⟨.fault, 3, 0, 0, [0xFF00000000000000000000000000000003]⟩ ∧
    seen (runWord 0x070000000000000001 faultB) =
      some ⟨.fault, 1, 0, 0, [0xFF00000000000000000000000000000001]⟩ := by decide

/-- Section 2.4: ILLEGAL_CMD before LEN_UNALIGNED. -/
theorem test_illegal_before_unaligned :
    seen (runWord 0x01800000000000000C idleB) =
      some ⟨.fault, 3, 0, 0, [0xFF00000000000000000000000000000003]⟩ := by decide

/-! ### Steps -/

/-- The step runs the word the host places, from the reset state: START 0 of program P1. -/
theorem test_step_from_reset :
    seen (step (State.reset.withFetchWord 72 0x010000000000000000)) =
      some ⟨.absorbing, 0, 0, 0, [0x0100000000000000000000000000000000]⟩ := by decide

/-- The reset input answers nothing (70_reset_and_hazards.md R150); with nothing sent nothing changes
(60_exceptions.md R146). -/
theorem test_step_reset_input_and_waiting :
    seen (step { faultB with inbox := [.resetInput] }) = some ⟨.idle, 0, 0, 0, []⟩ ∧
    nextOf (step owingB) = some owingB := by decide

/-- A command word before the reset input, after power-up, has no behaviour (R150). -/
theorem test_step_before_reset :
    step { idleB with inbox := [.command 0x050000000000000000], awaitingReset := true } =
      .fault .commandBeforeReset := by rfl

/-! ### Witnesses: every hypothesis of every statement is met -/

/-- EncodeOfDecode; AssembledLinesAreWellFormed; OpcodeRowsDisjoint. -/
theorem witness_EncodeOfDecode : decode 0x060000001FFFFFFFFF#72 = .ok (.rotl 0xFFFFFFFF 31) := by rfl

theorem witness_AssembledLinesAreWellFormed :
    (∃ ws, assemble (.mix [0, 1, 2, 3, 4, 5, 6, 7]) = some ws ∧ 0x020706050403020100#72 ∈ ws) ∧
    ∀ x, AsmLine.mix [0, 1, 2, 3, 4, 5, 6, 7] ≠ .word72 x :=
  ⟨⟨_, rfl, by decide⟩, fun _ h => AsmLine.noConfusion h⟩

theorem witness_OpcodeRowsDisjoint :
    ∃ r ∈ opcodeTable, r.accepts 0x060000001FFFFFFFFF#72 = true ∧ r.mnemonic = "ROTL" :=
  ⟨⟨"ROTL", 0xFFFFFFFFE000000000#72, 0x060000000000000000#72⟩, by decide⟩

/-- FormatFields: one word for each opcode the clauses name, and the two edges of the undefined
opcodes; the reserved bits of the format zero and nonzero. -/
theorem witness_FormatFields :
    [0x0100000000FFFFFFFF#72, 0x010000000100000000#72, 0x02FFFFFFFFFFFFFFFF#72,
      0x030000000000000000#72, 0x030000000000000001#72, 0x040000000000000000#72,
      0x048000000000000000#72, 0x050000000000000000#72, 0x050000000100000000#72,
      0x060000001F00000000#72, 0x060000002000000000#72, 0x070000000000000000#72,
      0x070000000000000001#72].map (fun w => (w.extractLsb' 64 8).toNat) =
      [1, 1, 2, 3, 3, 4, 4, 5, 5, 6, 6, 7, 7] ∧
    (0x00FFFFFFFFFFFFFFFF#72).extractLsb' 64 8 = 0x00#8 ∧
    0x08 ≤ ((0x080000000000000000#72).extractLsb' 64 8).toNat ∧
    0x08 ≤ ((0xFFFFFFFFFFFFFFFFFF#72).extractLsb' 64 8).toNat := by decide

/-- DecodesExactlyWellFormedWords: an illegal word outside FAULT phase. -/
theorem witness_DecodesExactlyWellFormedWords :
    wordWellFormed 0x030000000000000001#72 = false ∧ idleB.phase ≠ .fault ∧
    wordWellFormed 0x030000000000000000#72 = true := by decide

/-- MixExpansion: a message of one block; byte 7 of block 0. -/
theorem witness_MixExpansion :
    ([0, 1, 2, 3, 4, 5, 6, 7] : List Byte).length % 8 = 0 ∧
    ([0, 1, 2, 3, 4, 5, 6, 7] : List Byte).length < 2 ^ 32 ∧
    0 < ([0, 1, 2, 3, 4, 5, 6, 7] : List Byte).length / 8 := by decide

/-- WordArithmetic, RotatorMovesEveryBit, LittleEndianBytes, DigestBytesLittleEndian: the ranges'
ends; RotatorIdentities: a rotation that two words agree on. -/
theorem witness_ranges :
    (0 : Nat) ≤ 31 ∧ (31 : Nat) ≤ 31 ∧ 1 ≤ (1 : RotAmount).toNat ∧ 1 ≤ (31 : RotAmount).toNat ∧
    (31 : Nat) < 32 ∧ (3 : Nat) < 4 ∧ rotl32 0xFFFFFFFF 1 = rotl32 0xFFFFFFFF 1 := by decide

/-- StartBehaviour: the four clauses, at the smallest and largest lengths. -/
theorem witness_StartBehaviour :
    ((idleB.phase = .idle ∨ idleB.phase = .done) ∧ (0#32).toNat % 8 = 0) ∧
    ((doneB.phase = .idle ∨ doneB.phase = .done) ∧ (0xFFFFFFF8#32).toNat % 8 = 0) ∧
    ((idleB.phase = .idle ∨ idleB.phase = .done) ∧ (0xFFFFFFFF#32).toNat % 8 ≠ 0) ∧
    ((doneB.phase = .idle ∨ doneB.phase = .done) ∧ (1#32).toNat % 8 ≠ 0) ∧
    owingB.phase = .absorbing ∧ faultB.phase = .fault := by decide

/-- AbsorbBehaviour: the clauses, with one block and with all of the longest message's owed. -/
theorem witness_AbsorbBehaviour :
    (owingB.phase = .absorbing ∧ owingB.cnt ≠ 0) ∧
    ((st .absorbing 0 0xFFFFFFF8 0x1FFFFFFF ivB).phase = .absorbing ∧
      (st .absorbing 0 0xFFFFFFF8 0x1FFFFFFF ivB).cnt ≠ 0) ∧
    idleB.phase = .idle ∧ doneB.phase = .done ∧ (paidB.phase = .absorbing ∧ paidB.cnt = 0) ∧
    faultB.phase = .fault := by decide

/-- FinalBehaviour: the clauses. -/
theorem witness_FinalBehaviour :
    (paidB.phase = .absorbing ∧ paidB.cnt = 0) ∧ idleB.phase = .idle ∧ doneB.phase = .done ∧
    (owingB.phase = .absorbing ∧ owingB.cnt ≠ 0) ∧ faultB.phase = .fault := by decide

/-- RddigBehaviour: the clauses. -/
theorem witness_RddigBehaviour :
    doneB.phase = .done ∧ idleB.phase = .idle ∧ owingB.phase = .absorbing ∧
    faultB.phase = .fault := by decide

/-- RotlBehaviour: a word with ROTL's opcode and its lowest reserved bit set. -/
theorem witness_RotlBehaviour :
    (0x060000002000000000#72).extractLsb' 64 8 = 0x06#8 ∧
    (0x060000002000000000#72).extractLsb' 37 27 ≠ 0#27 := by decide

/-- ResetBehaviour: a word with RESET's opcode and a nonzero operand field, in both kinds of phase, and
a command that leaves FAULT phase. -/
theorem witness_ResetBehaviour :
    (0x070000000000000001#72).extractLsb' 64 8 = 0x07#8 ∧
    (0x070000000000000001#72).extractLsb' 0 64 ≠ 0#64 ∧
    idleB.phase ≠ .fault ∧ faultB.phase = .fault ∧
    ∃ t, exec .reset faultB = .next t ∧ t.phase ≠ .fault :=
  ⟨by decide, by decide, by decide, rfl, _, rfl, by decide⟩

/-- ReadsAreIdempotent: each of the three commands. -/
theorem witness_ReadsAreIdempotent :
    Instr.isFree .rdstat = true ∧ Instr.isFree (.rotl 1 1) = true ∧ doneB.phase = .done := by decide

/-- FinalFourthWord: an accepted FINAL. -/
theorem witness_FinalFourthWord :
    paidB.phase = .absorbing ∧ paidB.cnt = 0 ∧ ∃ t, exec .final paidB = .next t :=
  ⟨rfl, rfl, _, rfl⟩

/-- BlockIndexAdvances: an accepted ABSORB, of the last block owed and of the first of the longest
message. -/
theorem witness_BlockIndexAdvances :
    (MeetsInvariants owingB ∧ owingB.awaitingReset = false ∧
      ∃ t, exec (.absorb 0 0) owingB = .next t ∧ t.phase = .absorbing) ∧
    MeetsInvariants (st .absorbing 0 0xFFFFFFF8 0x1FFFFFFF ivB) ∧
    ∃ t, exec (.absorb 0 0) (st .absorbing 0 0xFFFFFFF8 0x1FFFFFFF ivB) = .next t ∧
      t.phase = .absorbing :=
  ⟨⟨by decide, rfl, _, rfl, by decide⟩, by decide, _, rfl, by decide⟩

/-- FaultsExactlyWhen, FaultEntryWritesNothingElse: each of the three faults. -/
theorem witness_FaultsExactlyWhen :
    seen (runWord 0x01000000000000000C idleB) =
      some ⟨.fault, 1, 0, 0, [0xFF00000000000000000000000000000001]⟩ ∧
    seen (runWord 0x040000000000000000 idleB) =
      some ⟨.fault, 2, 0, 0, [0xFF00000000000000000000000000000002]⟩ ∧
    seen (runWord 0xFF0000000000000000 idleB) =
      some ⟨.fault, 3, 0, 0, [0xFF00000000000000000000000000000003]⟩ := by decide

theorem witness_FaultEntryWritesNothingElse :
    owingB.phase ≠ .fault ∧ ∃ t, runWord 0x030000000000000000 owingB = .next t ∧ t.phase = .fault :=
  ⟨by decide, _, rfl, by decide⟩

/-- FaultPriority: its three clauses. -/
theorem witness_FaultPriority :
    (owingB.phase = .absorbing ∧ (12#32).toNat % 8 ≠ 0) ∧
    (idleB.phase ≠ .fault ∧ (0x01800000000000000C#72).extractLsb' 64 8 = 0x01#8 ∧
      (0x01800000000000000C#72).extractLsb' 32 32 ≠ 0#32) ∧
    ∃ t, runWord 0xFF0000000000000000 faultB = .next t ∧ t.phase = .fault ∧ faultB.phase = .fault :=
  ⟨by decide, by decide, _, rfl, by decide, rfl⟩

/-- FaultPhaseRefuses: a command that runs, one that is refused and an illegal word. -/
theorem witness_FaultPhaseRefuses :
    faultB.phase = .fault ∧
    (decode 0x050000000000000000#72 = .ok .rdstat ∧ Instr.isFree .rdstat = true) ∧
    decode 0x070000000000000000#72 = .ok .reset ∧
    (∀ i, decode 0x030000000000000000#72 = .ok i → i ≠ .reset ∧ i.isFree = false) ∧
    (∀ i, decode 0xFF0000000000000000#72 = .ok i → i ≠ .reset ∧ i.isFree = false) :=
  ⟨rfl, ⟨rfl, rfl⟩, rfl, (fun _ h => by cases h; exact ⟨by decide, rfl⟩), (fun _ h => by cases h)⟩

/-- FaultLeftOnlyByReset: a step in FAULT phase, by each way out and by none. -/
theorem witness_FaultLeftOnlyByReset :
    faultB.awaitingReset = false ∧ faultB.phase = .fault ∧ (∃ t, step faultB = .next t) ∧
    (∃ t, step { faultB with inbox := [.command 0x070000000000000000] } = .next t) ∧
    (∃ t, step { faultB with inbox := [.resetInput] } = .next t) ∧
    ∃ t, step { faultB with inbox := [.powerOn] } = .next t :=
  ⟨rfl, rfl, ⟨_, rfl⟩, ⟨_, rfl⟩, ⟨_, rfl⟩, _, rfl⟩

/-- PhaseMachine: an illegal word, and each kind of entry of its table. -/
theorem witness_PhaseMachine : decode 0x080000000000000000#72 = .error .undefinedOpcode ∧
    phaseTable .fault false .reset = .accepted .idle ∧
    phaseTable .absorbing false .final = .accepted .done ∧
    phaseTable .absorbing true .final = .faults .sequence ∧
    phaseTable .fault true .final = .refused := ⟨rfl, by decide⟩

/-- DigestOnlyInDone: a DIGEST response. -/
theorem witness_DigestOnlyInDone : ∃ t r, runWord 0x040000000000000000 doneB = .next t ∧
    t.outbox = doneB.outbox ++ [r] ∧ responseKind r = 0x02#8 :=
  ⟨_, _, rfl, rfl, by decide⟩

/-- ResponsesByKind, StepKeepsInvariant: states of every phase that meet the invariants. -/
theorem witness_invariants :
    [idleB, owingB, paidB, doneB, faultB].all
      (fun s => decide (MeetsInvariants s) && !s.awaitingReset) = true := by decide

theorem witness_StepKeepsInvariant : MeetsInvariants owingB ∧
    ∃ t, step { owingB with inbox := [.command 0x020706050403020100] } = .next t ∧
      t.phase = .absorbing ∧ t.cnt = 0 :=
  ⟨by decide, _, rfl, by decide, by decide⟩

/-- StepRunsDecodedCommand: a command and an illegal word as the oldest event, outside FAULT phase
and in it. -/
theorem witness_StepRunsDecodedCommand :
    idleB.awaitingReset = false ∧
    { idleB with inbox := [.command 0x010000000000000018] }.inbox =
      .command 0x010000000000000018 :: [] ∧
    decode 0x010000000000000018#72 = .ok (.start 0x18) ∧
    decode 0x000000000000000000#72 = .error .undefinedOpcode ∧
    idleB.phase ≠ .fault ∧ faultB.phase = .fault :=
  ⟨rfl, rfl, rfl, rfl, by decide, rfl⟩

/-- EachCommandAnsweredOnceInOrder: two command words ahead of a reset input, and a step that
consumes no command word. -/
theorem witness_EachCommandAnsweredOnceInOrder :
    { idleB with inbox := [.command 0, .command 1, .resetInput] }.inbox =
      [(0 : CommandWord), 1].map HostEvent.command ++ [.resetInput] ∧
    (∃ t, step { idleB with inbox := [.resetInput] } = .next t) ∧
    ∀ w rest, { idleB with inbox := [.resetInput] }.inbox ≠ .command w :: rest :=
  ⟨rfl, ⟨_, rfl⟩, fun _ _ h => by cases h⟩

/-- ResetInputBehaviour and WaitingAndPowerUp: each event, and the wait after power-up. -/
theorem witness_ResetInputBehaviour :
    { faultB with inbox := [.resetInput] }.inbox = .resetInput :: [] ∧
    { faultB with awaitingReset := true, inbox := [.command 0] }.awaitingReset = true ∧
    { faultB with awaitingReset := true, inbox := [.command 0] }.inbox = .command 0 :: [] :=
  ⟨rfl, rfl, rfl⟩

theorem witness_WaitingAndPowerUp :
    idleB.inbox = [] ∧ { idleB with inbox := [.powerOn] }.inbox = .powerOn :: [] := ⟨rfl, rfl⟩

/-- LateSendsDoNotDisturbAStep, IvNeverChanges: a step with something sent, and one that stops. -/
theorem witness_LateSendsDoNotDisturbAStep :
    { idleB with inbox := [.command 0] }.inbox ≠ [] ∧
    (∃ t, step { idleB with inbox := [.command 0] } = .next t) ∧
    { idleB with inbox := [.command 0], awaitingReset := true }.inbox ≠ [] ∧
    step { idleB with inbox := [.command 0], awaitingReset := true } = .fault .commandBeforeReset :=
  ⟨by decide, ⟨_, rfl⟩, by decide, rfl⟩

/-- HiddenSNeverObservable: two states that agree up to an `S` not in use, with a step that is a next
state and one that stops. -/
theorem witness_HiddenSNeverObservable :
    AgreeUpToHiddenS idleB { idleB with regs := ivB } ∧ idleB.regs ≠ ivB ∧
    (∃ t, step { idleB with inbox := [.command 0x010000000000000000] } = .next t) ∧
    step { idleB with inbox := [.command 0], awaitingReset := true } = .fault .commandBeforeReset :=
  ⟨by decide, by decide, ⟨_, rfl⟩, rfl⟩

/-- AccessTableWrites and AccessTableReads: a command outside FAULT phase that is none of those a
column names, and one for each column. -/
theorem witness_AccessTable :
    idleB.phase ≠ .fault ∧ (∃ t, exec .rdstat idleB = .next t) ∧
    (∀ len, Instr.rdstat ≠ .start len) ∧ (∀ v0 v1, Instr.rdstat ≠ .absorb v0 v1) ∧
    Instr.rdstat ≠ .final ∧ Instr.rdstat ≠ .rddig ∧ Instr.rdstat ≠ .reset ∧
    Instr.start 0 ≠ .rdstat ∧ Instr.start 0 ≠ .final ∧
    (∃ t, exec (.start 1) idleB = .next t ∧ t.phase = .fault) :=
  ⟨by decide, ⟨_, rfl⟩, (fun _ h => by cases h), (fun _ _ h => by cases h), by decide, by decide, by decide, by decide, by decide, _, rfl, by decide⟩

/-- MixGivesSixteenBytes: a message that has an output. -/
theorem witness_MixGivesSixteenBytes : ∃ out, mix ivB [] = some out := ⟨_, rfl⟩

/-- The commands of a one-block message with RDSTAT and ROTL in between. -/
def mixedCommands : List Instr :=
  [.rotl 1 1, .start 8, .rdstat, .absorb 0x03020100 0x07060504, .rotl 0 0, .final]

/-- MixCommandsComputeMix. -/
theorem witness_MixCommandsComputeMix :
    mixedCommands.filter (fun i => !i.isFree) = mixCommands [0, 1, 2, 3, 4, 5, 6, 7] ∧
    { idleB with inbox := mixedCommands.map fun i => HostEvent.command (encode i) }.inbox =
      mixedCommands.map (fun i => HostEvent.command (encode i)) ++ [] ∧
    idleB.awaitingReset = false ∧ idleB.phase = .idle ∧
    ([0, 1, 2, 3, 4, 5, 6, 7] : List Byte).length ≤ 2 ^ 32 - 8 :=
  ⟨by decide, by simp, rfl, rfl, by decide⟩

/-- MixIsDeterministic: two different instances under one `IV`. -/
theorem witness_MixIsDeterministic :
    idleB.iv = doneB.iv ∧ idleB.phase = .idle ∧ doneB.phase = .done ∧ idleB ≠ doneB ∧
    idleB.awaitingReset = false ∧ doneB.awaitingReset = false ∧
    { doneB with inbox := (mixCommands []).map fun i => HostEvent.command (encode i) }.inbox =
      (mixCommands []).map (fun i => HostEvent.command (encode i)) ++ [] :=
  ⟨rfl, rfl, rfl, by decide, rfl, rfl, by simp⟩

/-- DigestRunSucceedsWithMix and WrongBlockCountFails: an accepted START, with no block after it. -/
theorem witness_DigestRun :
    (doneB.phase = .idle ∨ doneB.phase = .done) ∧
    (∃ t, exec (.start (BitVec.ofNat 32 ([] : List Byte).length)) doneB = .next t) ∧
    (8#32).toNat % 8 = 0 ∧ (∃ t, exec (.start 8) doneB = .next t) ∧
    ([] : List (Word × Word)).length ≠ (8#32).toNat / 8 ∧
    [((0 : Word), (0 : Word)), (0, 0)].length ≠ (8#32).toNat / 8 :=
  ⟨.inr rfl, ⟨_, rfl⟩, by decide, ⟨_, rfl⟩, by decide, by decide⟩

end Sys2Proof.Tests
end

section
/-!
PROOF. R43 and R44 agree: the bytes of a digest payload are the little-endian encodings of the four
words. The idea: byte `k` of `le_bytes` is a bit field, and a bit field of a concatenation lies in
one of its two halves.
-/
namespace Sys2Proof.Machine

/-- R93 on a bit vector: byte `k` is the bit field `[8k+7 : 8k]`. -/
theorem leBytes_toNat {w : Nat} (v : BitVec w) (n : Nat) :
    leBytes v.toNat n = (List.range n).map fun k => v.extractLsb' (8 * k) 8 := by
  refine List.map_congr_left fun k _ => BitVec.eq_of_toNat_eq ?_
  simp [Nat.shiftRight_eq_div_pow]

/-- The low word of a concatenation gives the first four bytes, the rest gives the others. -/
theorem leBytes_append_word {w : Nat} (hi : BitVec w) (lo : Word) (n : Nat) :
    leBytes (hi ++ lo).toNat (4 + n) = leBytes lo.toNat 4 ++ leBytes hi.toNat n := by
  simp only [leBytes_toNat, List.range_add, List.map_append, List.map_map]
  refine congrArg₂ (· ++ ·) (List.map_congr_left fun k hk => ?low)
    (List.map_congr_left fun k _ => ?high)
  case low =>
    have := List.mem_range.1 hk
    exact BitVec.extractLsb'_append_eq_of_add_le (by omega)
  case high =>
    rw [Function.comp_apply, BitVec.extractLsb'_append_eq_of_le (by omega), Nat.mul_add,
      Nat.add_sub_cancel_left]

theorem digestBytes_eq_leBytes (data : BitVec 128) : digestBytes data = leBytes data.toNat 16 :=
  (leBytes_toNat data 16).symm

/-- R43's first reading: the four encodings in order, `S[0]` first. -/
theorem digestBytes_digestData (q : Quad) :
    digestBytes (digestData q) =
      leBytes q.w0.toNat 4 ++ leBytes q.w1.toNat 4 ++ leBytes q.w2.toNat 4 ++ leBytes q.w3.toNat 4 := by
  rw [digestBytes_eq_leBytes, digestData, leBytes_append_word _ _ 12, leBytes_append_word _ _ 8,
    leBytes_append_word _ _ 4]
  simp only [List.append_assoc]

theorem getElem?_digestBytes (data : BitVec 128) {m : Nat} (hm : m < 16) :
    (digestBytes data)[m]? = some (data.extractLsb' (8 * m) 8) := by
  simp [digestBytes, hm]

/-- A bit field within one word of the payload is that word's own bit field. -/
theorem extractLsb'_digestData (q : Quad) {j start len : Nat} (hj : j < 4) (h : start + len ≤ 32) :
    [q.w0, q.w1, q.w2, q.w3][j]?.map (fun w => w.extractLsb' start len) =
      some ((digestData q).extractLsb' (32 * j + start) len) := by
  unfold digestData
  match j, hj with
  | 0, _ =>
    rw [BitVec.extractLsb'_append_eq_of_add_le (by omega)]
    simp
  | 1, _ =>
    rw [BitVec.extractLsb'_append_eq_of_le (by omega),
      BitVec.extractLsb'_append_eq_of_add_le (by omega)]
    simp
  | 2, _ =>
    rw [BitVec.extractLsb'_append_eq_of_le (by omega),
      BitVec.extractLsb'_append_eq_of_le (by omega),
      BitVec.extractLsb'_append_eq_of_add_le (by omega)]
    simp [Nat.sub_sub]
  | 3, _ =>
    rw [BitVec.extractLsb'_append_eq_of_le (by omega),
      BitVec.extractLsb'_append_eq_of_le (by omega),
      BitVec.extractLsb'_append_eq_of_le (by omega)]
    simp [Nat.sub_sub]

/-- R43's second reading, `Out(4j + k) = S[j][8k+7 : 8k]`. -/
theorem getElem?_digestBytes_digestData (q : Quad) {j k : Nat} (hj : j < 4) (hk : k < 4) :
    (digestBytes (digestData q))[4 * j + k]? =
      ([q.w0, q.w1, q.w2, q.w3][j]?).map fun w => w.extractLsb' (8 * k) 8 := by
  rw [getElem?_digestBytes _ (by omega), extractLsb'_digestData q hj (by omega)]
  congr 2
  omega

/-- Settles O17: both readings of R43. -/
theorem digestBytesLittleEndian : Obligations.DigestBytesLittleEndian :=
  fun q => ⟨digestBytes_digestData q, fun _ _ hj hk => getElem?_digestBytes_digestData q hj hk⟩

end Sys2Proof.Machine
end

section
/-!
PROOF. 30_encoding.md R61 to R68: the fields of response and command words, what the decoder makes of
each opcode, and the agreement of the decoder with the masks of the opcode table.
-/
namespace Sys2Proof.Machine

/-- Settles O8. -/
theorem responseWordFields : Obligations.ResponseWordFields :=
  fun k data => ⟨responseData_responseWord k data,
    (responseKind_responseWord k data).trans (by cases k <;> rfl)⟩

/-! Bit fields. -/

/-- A bit field equals a concatenation when its two parts do. -/
theorem extractLsb'_eq_append_iff {n a b : Nat} (x : BitVec n) (start : Nat) (hi : BitVec b)
    (lo : BitVec a) :
    x.extractLsb' start (b + a) = hi ++ lo ↔
      x.extractLsb' (start + a) b = hi ∧ x.extractLsb' start a = lo := by
  rw [← BitVec.extractLsb'_append_extractLsb'_eq_extractLsb' (start₂ := start + a) rfl]
  constructor
  · intro h
    have hhi := congrArg (BitVec.extractLsb' a b) h
    have hlo := congrArg (BitVec.extractLsb' 0 a) h
    simp only [BitVec.extractLsb'_append_eq_left, BitVec.extractLsb'_append_eq_right] at hhi hlo
    exact ⟨hhi, hlo⟩
  · rintro ⟨rfl, rfl⟩
    rfl

/-- The mask of a format with `c` opcode bits, `b` reserved bits and `a` free bits selects the words
with that opcode whose reserved bits are 0. -/
theorem and_formatMask_eq_iff {c b a : Nat} (w : BitVec (c + b + a)) (op : BitVec c) :
    w &&& (BitVec.allOnes (c + b) ++ 0#a) = op ++ 0#b ++ 0#a ↔
      w.extractLsb' (a + b) c = op ∧ w.extractLsb' a b = 0#b := by
  have hw := (BitVec.extractLsb'_append_extractLsb' (x := w)).symm
  calc w &&& (BitVec.allOnes (c + b) ++ 0#a) = op ++ 0#b ++ 0#a
    _ ↔ w.extractLsb' a (c + b) ++ 0#a = op ++ 0#b ++ 0#a := by
      conv_lhs => rw [hw, BitVec.and_append, BitVec.and_allOnes, BitVec.and_zero]
    _ ↔ w.extractLsb' a (c + b) = op ++ 0#b := BitVec.append_left_inj _
    _ ↔ _ := extractLsb'_eq_append_iff w a op 0#b

/-! The decoder, opcode by opcode. -/

theorem unlessReserved_eq_ite (b : Bool) (i : Instr) :
    unlessReserved b i = if b = true then .ok i else .error .reservedBits := rfl

/-- Format N (R63): a command without operands needs all of `arg` zero. -/
theorem decodeN_eq_ite (w : CommandWord) (i : Instr) :
    decodeN w i = if w.extractLsb' 0 64 = 0#64 then .ok i else .error .reservedBits := by
  have harg : (argHigh w == 0 && argLow w == 0) = true ↔ w.extractLsb' 0 64 = 0#64 := by
    simpa [argHigh, argLow] using (extractLsb'_eq_append_iff w 0 0#32 0#32).symm
  simp only [decodeN, unlessReserved_eq_ite, harg]

/-- An undefined opcode is none of the seven defined ones. -/
theorem undefinedOpcode_ne {op : BitVec 8} (h : op = 0x00#8 ∨ 0x08 ≤ op.toNat) :
    op ≠ 0x01#8 ∧ op ≠ 0x02#8 ∧ op ≠ 0x03#8 ∧ op ≠ 0x04#8 ∧ op ≠ 0x05#8 ∧ op ≠ 0x06#8 ∧
      op ≠ 0x07#8 := by
  bv_omega

theorem opcode_cases (op : BitVec 8) :
    op = 0x01#8 ∨ op = 0x02#8 ∨ op = 0x03#8 ∨ op = 0x04#8 ∨ op = 0x05#8 ∨ op = 0x06#8 ∨
      op = 0x07#8 ∨ (op = 0x00#8 ∨ 0x08 ≤ op.toNat) := by
  bv_omega

/-- Settles O3: the decoder's chain of tests is resolved by the opcode. -/
theorem formatFields : Obligations.FormatFields := by
  intro w
  refine ⟨?start, ?absorb, ?final, ?rddig, ?rdstat, ?rotl, ?reset, ?undefined⟩
  case undefined =>
    intro h
    have hne := undefinedOpcode_ne h
    simp [decode, opField, hne]
  all_goals
    intro h
    change opField w = _ at h
    simp [decode, h, decodeN_eq_ite, unlessReserved_eq_ite, argHigh, argLow, rotReserved, rotField]

/-! Well-formed words. -/

/-- R68 by the bits of the word: an opcode of the table, and zeros where its format reserves bits. -/
def LegalFields (w : CommandWord) : Prop :=
  (w.extractLsb' 64 8 = 0x01#8 ∧ w.extractLsb' 32 32 = 0#32) ∨
  w.extractLsb' 64 8 = 0x02#8 ∨
  (w.extractLsb' 64 8 = 0x03#8 ∧ w.extractLsb' 0 64 = 0#64) ∨
  (w.extractLsb' 64 8 = 0x04#8 ∧ w.extractLsb' 0 64 = 0#64) ∨
  (w.extractLsb' 64 8 = 0x05#8 ∧ w.extractLsb' 0 64 = 0#64) ∨
  (w.extractLsb' 64 8 = 0x06#8 ∧ w.extractLsb' 37 27 = 0#27) ∨
  (w.extractLsb' 64 8 = 0x07#8 ∧ w.extractLsb' 0 64 = 0#64)

/-- Each row of the opcode table has the mask of its command's format. -/
theorem wordWellFormed_iff_legalFields (w : CommandWord) :
    wordWellFormed w = true ↔ LegalFields w := by
  have formatL := and_formatMask_eq_iff (b := 32) (a := 32) w 0x01#8
  have formatB : _ ↔ _ ∧ w.extractLsb' 64 0 = 0#0 :=
    and_formatMask_eq_iff (b := 0) (a := 64) w 0x02#8
  have formatN := and_formatMask_eq_iff (b := 64) (a := 0) w
  have formatR := and_formatMask_eq_iff (b := 27) (a := 37) w 0x06#8
  rw [BitVec.extractLsb'_eq_zero, and_iff_left rfl] at formatB
  simp only [wordWellFormed, opcodeTable, OpcodeRow.accepts, List.any_cons, List.any_nil,
    Bool.or_false, Bool.or_eq_true, beq_iff_eq]
  exact or_congr formatL (or_congr formatB (or_congr (formatN 0x03#8) (or_congr (formatN 0x04#8)
    (or_congr (formatN 0x05#8) (or_congr formatR (formatN 0x07#8))))))

theorem exists_ite_eq_ok_iff {α ε : Type} (p : Prop) [Decidable p] (a : α) (e : ε) :
    (∃ i, (if p then Except.ok a else Except.error e) = Except.ok i) ↔ p := by
  split <;> simp [*]

/-- The decoder accepts the same words: its branch for each opcode tests the reserved bits. -/
theorem exists_decode_eq_ok_iff_legalFields (w : CommandWord) :
    (∃ i, decode w = .ok i) ↔ LegalFields w := by
  obtain ⟨hstart, habsorb, hfinal, hrddig, hrdstat, hrotl, hreset, hundefined⟩ := formatFields w
  rcases opcode_cases (w.extractLsb' 64 8) with h | h | h | h | h | h | h | h
  · simp [LegalFields, h, hstart h, exists_ite_eq_ok_iff]
  · simp [LegalFields, h, habsorb h]
  · simp [LegalFields, h, hfinal h, exists_ite_eq_ok_iff]
  · simp [LegalFields, h, hrddig h, exists_ite_eq_ok_iff]
  · simp [LegalFields, h, hrdstat h, exists_ite_eq_ok_iff]
  · simp [LegalFields, h, hrotl h, exists_ite_eq_ok_iff]
  · simp [LegalFields, h, hreset h, exists_ite_eq_ok_iff]
  · have hne := undefinedOpcode_ne h
    simp [LegalFields, hne, hundefined h]

/-- R68's wording: a defined opcode, and for each format its reserved bits 0. -/
theorem legalFields_iff (w : CommandWord) :
    LegalFields w ↔
      (0x01 ≤ (w.extractLsb' 64 8).toNat ∧ (w.extractLsb' 64 8).toNat ≤ 0x07) ∧
      (w.extractLsb' 64 8 = 0x01#8 → w.extractLsb' 32 32 = 0#32) ∧
      (w.extractLsb' 64 8 = 0x06#8 → w.extractLsb' 37 27 = 0#27) ∧
      (w.extractLsb' 64 8 = 0x03#8 ∨ w.extractLsb' 64 8 = 0x04#8 ∨
        w.extractLsb' 64 8 = 0x05#8 ∨ w.extractLsb' 64 8 = 0x07#8 →
          w.extractLsb' 0 64 = 0#64) := by
  rcases opcode_cases (w.extractLsb' 64 8) with h | h | h | h | h | h | h | h
  case inr.inr.inr.inr.inr.inr.inr =>
    have hrange : ¬(0x01 ≤ (w.extractLsb' 64 8).toNat ∧ (w.extractLsb' 64 8).toNat ≤ 0x07) := by
      bv_omega
    have hne := undefinedOpcode_ne h
    simp only [LegalFields, hne, hrange, false_and, or_self]
  all_goals simp [LegalFields, h]

/-- R133 outside FAULT phase, as a full record: the fields not named are unchanged. -/
theorem illegalCommand_outside_fault {s : State} (h : s.phase ≠ .fault) :
    illegalCommand s = { s with
      phase := .fault
      cause := 3
      outbox := s.outbox ++ [responseWord .fault 3] } :=
  guarded_faults h

/-- Settles O5: decoder, masks and R68's wording each say `LegalFields`. -/
theorem decodesExactlyWellFormedWords : Obligations.DecodesExactlyWellFormedWords := by
  intro w
  have hwf := wordWellFormed_iff_legalFields w
  have hok := (exists_decode_eq_ok_iff_legalFields w).trans hwf.symm
  refine ⟨hok, hwf.trans (legalFields_iff w), fun hill s hs => ?_⟩
  cases hd : decode w with
  | ok i => exact absurd (hok.1 ⟨i, hd⟩) (by simp [hill])
  | error e => rw [runWord_error hd, illegalCommand_outside_fault hs]

end Sys2Proof.Machine
end

section
/-!
PROOF. 30_encoding.md R65 and R74: the bytes of a block in its ABSORB word, and the words of a MIX
line. The idea: the eight low bytes of an ABSORB word, least significant first, are the block's bytes
in message order.
-/
namespace Sys2Proof.Machine

/-! Blocks as bytes. -/

/-- R94's shifts and ORs are the concatenation, `b0` lowest. -/
theorem leWord32_eq_append (b0 b1 b2 b3 : Byte) : leWord32 b0 b1 b2 b3 = b3 ++ b2 ++ b1 ++ b0 := by
  have h := BitVec.setWidth_append_append_append_eq_shiftLeft_setWidth_or (w'''' := 32)
    (b := b3) (b' := b2) (b'' := b1) (b''' := b0)
  rw [BitVec.setWidth_eq] at h
  simp only [h, leWord32, shl32, Nat.reduceAdd, BitVec.or_comm]
  simp only [BitVec.or_assoc]

/-- R93, one byte at a time. -/
theorem leBytes_append_byte {w : Nat} (hi : BitVec w) (b : Byte) (n : Nat) :
    leBytes (hi ++ b).toNat (n + 1) = b :: leBytes hi.toNat n := by
  simp only [leBytes_toNat, List.range_succ_eq_map, List.map_cons, List.map_map]
  refine congrArg₂ List.cons BitVec.extractLsb'_append_eq_right (List.map_congr_left fun k _ => ?_)
  rw [Function.comp_apply, BitVec.extractLsb'_append_eq_of_le (by omega), Nat.mul_succ,
    Nat.add_sub_cancel]

theorem getElem?_leBytes_toNat {w : Nat} (v : BitVec w) {n k : Nat} (hk : k < n) :
    (leBytes v.toNat n)[k]? = some (v.extractLsb' (8 * k) 8) := by
  simp [leBytes_toNat, hk]

theorem leBytes_byte (b : Byte) : leBytes b.toNat 1 = [b] := by
  rw [leBytes_toNat]
  exact congrArg (fun x => [x]) BitVec.extractLsb'_eq_self

theorem leBytes_leWord32 (b0 b1 b2 b3 : Byte) :
    leBytes (leWord32 b0 b1 b2 b3).toNat 4 = [b0, b1, b2, b3] := by
  rw [leWord32_eq_append, leBytes_append_byte _ _ 3, leBytes_append_byte _ _ 2,
    leBytes_append_byte _ _ 1, leBytes_byte]

/-- R65: the operand of an ABSORB word, read as bytes, is the block. -/
theorem leBytes_encode_absorbBytes (b0 b1 b2 b3 b4 b5 b6 b7 : Byte) :
    leBytes (encode (absorbBytes b0 b1 b2 b3 b4 b5 b6 b7)).toNat 8 =
      [b0, b1, b2, b3, b4, b5, b6, b7] := by
  rw [absorbBytes, encode, leBytes_append_word _ _ 4, leBytes_append_word _ _ 0,
    leBytes_leWord32, leBytes_leWord32]
  rfl

theorem opcode_encode_absorb (v0 v1 : Word) :
    (encode (.absorb v0 v1)).extractLsb' 64 8 = 0x02#8 := by
  rw [encode, BitVec.extractLsb'_append_eq_of_le (by omega)]
  exact BitVec.extractLsb'_append_eq_left

/-- R65: every 64-bit operand of an ABSORB is a legal block. -/
theorem decode_absorb_append (arg : BitVec 64) :
    decode (0x02#8 ++ arg) = .ok (.absorb (arg.extractLsb' 0 32) (arg.extractLsb' 32 32)) := by
  obtain ⟨-, habsorb, -⟩ := formatFields (0x02#8 ++ arg)
  rw [habsorb BitVec.extractLsb'_append_eq_left,
    BitVec.extractLsb'_append_eq_of_add_le (by omega),
    BitVec.extractLsb'_append_eq_of_add_le (by omega)]

/-- Settles O4. -/
theorem blockFormatBytes : Obligations.BlockFormatBytes := by
  refine ⟨fun b0 b1 b2 b3 b4 b5 b6 b7 => ⟨opcode_encode_absorb _ _, ?_⟩, decode_absorb_append⟩
  have h := leBytes_encode_absorbBytes b0 b1 b2 b3 b4 b5 b6 b7
  rw [leBytes_toNat] at h
  simpa [List.range_succ] using h

/-! The blocks of a message. -/

theorem exists_eq_block_of_length {msg : List Byte} (h : 8 ≤ msg.length) :
    ∃ b0 b1 b2 b3 b4 b5 b6 b7 rest,
      msg = b0 :: b1 :: b2 :: b3 :: b4 :: b5 :: b6 :: b7 :: rest := by
  match msg, h with
  | b0 :: b1 :: b2 :: b3 :: b4 :: b5 :: b6 :: b7 :: rest, _ =>
    exact ⟨b0, b1, b2, b3, b4, b5, b6, b7, rest, rfl⟩
  | [], h | [_], h | [_, _], h | [_, _, _], h | [_, _, _, _], h | [_, _, _, _, _], h
  | [_, _, _, _, _, _], h | [_, _, _, _, _, _, _], h => simp at h

theorem length_lt_of_no_block {msg : List Byte}
    (h : ∀ b0 b1 b2 b3 b4 b5 b6 b7 rest,
      msg = b0 :: b1 :: b2 :: b3 :: b4 :: b5 :: b6 :: b7 :: rest → False) : msg.length < 8 := by
  by_contra hlong
  obtain ⟨b0, b1, b2, b3, b4, b5, b6, b7, rest, hmsg⟩ := exists_eq_block_of_length (not_lt.1 hlong)
  exact h b0 b1 b2 b3 b4 b5 b6 b7 rest hmsg

theorem length_blockCommands (msg : List Byte) : (blockCommands msg).length = msg.length / 8 := by
  induction msg using blockCommands.induct with
  | case1 b0 b1 b2 b3 b4 b5 b6 b7 rest ih =>
    simp only [blockCommands, List.length_cons, ih]
    omega
  | case2 msg h =>
    rw [blockCommands.eq_2 msg h, List.length_nil, Nat.div_eq_of_lt (length_lt_of_no_block h)]

/-- R41: the `i`-th block command is an ABSORB whose word holds the message from byte `8i`. -/
theorem exists_getElem?_blockCommands {msg : List Byte} {i : Nat} (hi : i < msg.length / 8) :
    ∃ v0 v1, (blockCommands msg)[i]? = some (.absorb v0 v1) ∧
      leBytes (encode (.absorb v0 v1)).toNat 8 = (msg.drop (8 * i)).take 8 := by
  induction msg using blockCommands.induct generalizing i with
  | case1 b0 b1 b2 b3 b4 b5 b6 b7 rest ih =>
    cases i with
    | zero => exact ⟨_, _, rfl, leBytes_encode_absorbBytes b0 b1 b2 b3 b4 b5 b6 b7⟩
    | succ i =>
      simp only [List.length_cons] at hi
      exact ih (by omega)
  | case2 msg h =>
    have := length_lt_of_no_block h
    omega

/-! The lines ABSORBB and MIX. -/

theorem assemble_of_wellFormed {l : AsmLine} (h : l.wellFormed = true) :
    assemble l = some l.words := if_pos h

/-- R74: ABSORBB is the ABSORB of its two little-endian words. -/
theorem assemble_absorbb (b0 b1 b2 b3 b4 b5 b6 b7 : Byte) :
    assemble (.absorbb b0.toNat b1.toNat b2.toNat b3.toNat b4.toNat b5.toNat b6.toNat b7.toNat) =
      assemble (.absorb (leWord32 b0 b1 b2 b3).toNat (leWord32 b4 b5 b6 b7).toNat) := by
  have hbyte : ∀ b : Byte, b.toNat < 256 := fun b => b.isLt
  have hword : ∀ v : Word, v.toNat < 4294967296 := fun v => v.isLt
  rw [assemble_of_wellFormed (by simp [AsmLine.wellFormed, hbyte]),
    assemble_of_wellFormed (by simp [AsmLine.wellFormed, hword])]
  simp [AsmLine.words, absorbBytes]

/-- R73: the zeros of format L are the high half of the 64-bit operand. -/
theorem encode_start_ofNat {n : Nat} (h : n < 2 ^ 32) :
    encode (.start (BitVec.ofNat 32 n)) = 0x01#8 ++ BitVec.ofNat 64 n := by
  have harg : (0#32 ++ BitVec.ofNat 32 n : BitVec 64) = BitVec.ofNat 64 n :=
    (BitVec.setWidth_eq_append (by decide)).symm.trans
      (BitVec.setWidth_ofNat_of_le_of_lt (by decide) h)
  rw [← harg, encode, BitVec.append_assoc]
  rfl

/-- Settles O11: the words of MIX are START's, one for each block command, and FINAL's. -/
theorem mixExpansion : Obligations.MixExpansion := by
  refine ⟨assemble_absorbb, fun msg h8 hlen => ?_⟩
  have hwf : (AsmLine.mix msg).wellFormed = true := by simpa [AsmLine.wellFormed, h8] using hlen
  refine ⟨_, assemble_of_wellFormed hwf, ?length, ?start, fun i hi => ?block, ?final⟩
  all_goals simp only [AsmLine.words, mixCommands, List.map_cons, List.map_append, List.map_nil]
  case length => simp [length_blockCommands]
  case start => exact congrArg some (encode_start_ofNat hlen)
  case final => simp [length_blockCommands, encode]
  case block =>
    obtain ⟨v0, v1, hget, hbytes⟩ := exists_getElem?_blockCommands hi
    refine ⟨encode (.absorb v0 v1), ?_, opcode_encode_absorb v0 v1, fun k hk => ?_⟩
    · have hi' : i < ((blockCommands msg).map encode).length := by
        simpa [length_blockCommands] using hi
      rw [List.getElem?_cons_succ, List.getElem?_append_left hi', List.getElem?_map, hget]
      rfl
    · rw [← getElem?_leBytes_toNat _ hk, hbytes, List.getElem?_take_of_lt hk, List.getElem?_drop]

end Sys2Proof.Machine
end

section
/-!
PROOF. 30_encoding.md R71 and R72: which response each word gets, and that words are answered one by
one in order. Both rest on what a word, and a step, can do (Laws/Exec.lean).
-/
namespace Sys2Proof.Machine

/-! Responses by kind. -/

theorem FaultCause.code_cases (c : FaultCause) : c.code = 1 ∨ c.code = 2 ∨ c.code = 3 := by
  cases c <;> decide

/-- 10_state.md R35: the latched cause of a block in FAULT phase is one of the three. -/
theorem cause_cases_of_fault {s : State} (hinv : MeetsInvariants s)
    (hready : s.awaitingReset = false) (hfault : s.phase = .fault) :
    s.cause = 1 ∨ s.cause = 2 ∨ s.cause = 3 := by
  obtain ⟨⟨hzero, hle⟩, -⟩ := hinv hready
  have hne : s.cause ≠ 0 := fun h => hzero.1 h hfault
  bv_omega

/-- R71: `r`, added by the word `w` run from `s` to `t`, is of a kind and payload the rule lists. -/
def AnsweredByKind (w : CommandWord) (s t : State) (r : ResponseWord) : Prop :=
  (r = responseWord .ack 0 ∧
    ((∃ len, decode w = .ok (.start len)) ∨ (∃ v0 v1, decode w = .ok (.absorb v0 v1)) ∨
      decode w = .ok .reset)) ∨
  (r = responseWord .digest (t.regs.w3 ++ t.regs.w2 ++ t.regs.w1 ++ t.regs.w0) ∧
    (decode w = .ok .final ∨ decode w = .ok .rddig)) ∨
  (r = responseWord .status (statusView s) ∧ decode w = .ok .rdstat) ∨
  (∃ value n, r = responseWord .rot (0#96 ++ rotl32 value n) ∧ decode w = .ok (.rotl value n)) ∨
  (r = responseWord .fault (t.cause.setWidth 128) ∧ t.phase = .fault ∧
    (t.cause = 1 ∨ t.cause = 2 ∨ t.cause = 3))

theorem setWidth_word (v : Word) : v.setWidth 128 = 0#96 ++ v :=
  BitVec.setWidth_eq_append (by decide)

theorem answeredByKind_raiseFault (w : CommandWord) (c : FaultCause) (s : State) :
    AnsweredByKind w s (raiseFault c s) (responseWord .fault (c.code.setWidth 128)) :=
  .inr (.inr (.inr (.inr ⟨rfl, rfl, c.code_cases⟩)))

theorem answeredByKind_refuseLatched (w : CommandWord) {s : State} (hinv : MeetsInvariants s)
    (hready : s.awaitingReset = false) (hfault : s.phase = .fault) :
    AnsweredByKind w s (refuseLatched s) (responseWord .fault (s.cause.setWidth 128)) :=
  .inr (.inr (.inr (.inr ⟨rfl, hfault, cause_cases_of_fault hinv hready hfault⟩)))

/-- Every word, legal or not, is answered as R71 lists. -/
theorem exists_answeredByKind (w : CommandWord) {s : State} (hinv : MeetsInvariants s)
    (hready : s.awaitingReset = false) :
    ∃ t r, runWord w s = .next t ∧ t.outbox = s.outbox ++ [r] ∧ AnsweredByKind w s t r := by
  have hrefused := answeredByKind_refuseLatched w hinv hready
  cases hd : decode w with
  | error e =>
    rw [runWord_error hd]
    rcases illegalCommand_cases s with ⟨hf, h⟩ | ⟨-, h⟩
    · exact ⟨_, _, congrArg _ h, rfl, hrefused hf⟩
    · exact ⟨_, _, congrArg _ h, rfl, answeredByKind_raiseFault w .illegalCmd s⟩
  | ok i =>
    rw [runWord_ok hd]
    rcases exec_cases i s with ⟨hf, h⟩ | ⟨-, c, -, h⟩ | ⟨len, rfl, -, -, h⟩ |
      ⟨v0, v1, rfl, -, -, h⟩ | ⟨rfl, -, -, h⟩ | ⟨rfl, -, h⟩ | ⟨rfl, h⟩ | ⟨value, n, rfl, h⟩ |
      ⟨rfl, h⟩
    · exact ⟨_, _, h, rfl, hrefused hf⟩
    · exact ⟨_, _, h, rfl, answeredByKind_raiseFault w c s⟩
    · exact ⟨_, _, h, rfl, .inl ⟨rfl, .inl ⟨len, hd⟩⟩⟩
    · exact ⟨_, _, h, rfl, .inl ⟨rfl, .inr (.inl ⟨v0, v1, hd⟩)⟩⟩
    · exact ⟨_, _, h, rfl, .inr (.inl ⟨rfl, .inl hd⟩)⟩
    · exact ⟨_, _, h, rfl, .inr (.inl ⟨rfl, .inr hd⟩)⟩
    · exact ⟨_, _, h, rfl, .inr (.inr (.inl ⟨rfl, hd⟩))⟩
    · exact ⟨_, _, h, rfl, .inr (.inr (.inr (.inl ⟨value, n, by rw [setWidth_word], hd⟩)))⟩
    · exact ⟨_, _, h, rfl, .inl ⟨rfl, .inr (.inr hd)⟩⟩

/-- Settles O36. -/
theorem responsesByKind : Obligations.ResponsesByKind :=
  fun w _ hinv hready => exists_answeredByKind w hinv hready

/-! One response for each word, in order. -/

theorem step_eq_runWord {w : CommandWord} {rest : List HostEvent} {s : State}
    (hready : s.awaitingReset = false) (hin : s.inbox = .command w :: rest) :
    step s = runWord w { s with inbox := rest } := by
  simp [step, stepEvent, nextEvent_cons hin, runEvent, hready]

/-- A step that consumes a command word adds one response. -/
theorem step_command {w : CommandWord} {rest : List HostEvent} {s : State}
    (hready : s.awaitingReset = false) (hin : s.inbox = .command w :: rest) :
    ∃ t r, step s = .next t ∧ t.outbox = s.outbox ++ [r] ∧ t.inbox = rest ∧
      t.awaitingReset = false := by
  obtain ⟨t, r, hrun, hout, hinbox, hwait, -⟩ := runWord_next w { s with inbox := rest }
  exact ⟨t, r, (step_eq_runWord hready hin).trans hrun, hout, hinbox, hwait.trans hready⟩

/-- R72: `k` words are `k` steps, and their responses are the first `k` of one list. -/
theorem run_commands (ws : List CommandWord) (rest : List HostEvent) (s : State)
    (hready : s.awaitingReset = false) (hin : s.inbox = ws.map HostEvent.command ++ rest) :
    ∃ rs : List ResponseWord, rs.length = ws.length ∧
      ∀ k : Nat, k ≤ ws.length → ∃ t : State,
        Host.Core.run core k s = .next t ∧
        t.inbox = (ws.drop k).map HostEvent.command ++ rest ∧
        t.outbox = s.outbox ++ rs.take k := by
  induction ws generalizing s with
  | nil =>
    refine ⟨[], rfl, fun k hk => ?_⟩
    obtain rfl := Nat.le_zero.1 hk
    exact ⟨s, run_zero s, hin, (List.append_nil _).symm⟩
  | cons w ws ih =>
    obtain ⟨t, r, hstep, hout, hinbox, hready'⟩ := step_command hready hin
    obtain ⟨rs, hlen, hrun⟩ := ih t hready' hinbox
    refine ⟨r :: rs, congrArg (· + 1) hlen, fun k hk => ?_⟩
    cases k with
    | zero => exact ⟨s, run_zero s, hin, (List.append_nil _).symm⟩
    | succ k =>
      obtain ⟨u, hu, huin, huout⟩ := hrun k (Nat.le_of_succ_le_succ hk)
      refine ⟨u, (run_succ_of_step k hstep).trans hu, huin, ?_⟩
      rw [huout, hout, List.append_assoc, List.take_succ_cons, List.singleton_append]

/-- Waiting, the reset input and a power-up answer nothing. -/
theorem step_outbox_of_no_command {s t : State} (hstep : step s = .next t)
    (hno : ∀ w rest, s.inbox ≠ .command w :: rest) : t.outbox = s.outbox := by
  rcases step_cases s with ⟨-, h⟩ | ⟨w, rest, hin, -⟩ | ⟨w, rest, hin, -⟩ | ⟨rest, -, h⟩ |
    ⟨rest, -, h⟩
  case inr.inl | inr.inr.inl => exact absurd hin (hno w rest)
  all_goals
    rw [h] at hstep
    cases hstep
    rfl

/-- Settles O39. -/
theorem eachCommandAnsweredOnceInOrder : Obligations.EachCommandAnsweredOnceInOrder :=
  ⟨run_commands, fun _ _ => step_outbox_of_no_command⟩

end Sys2Proof.Machine
end

section
/-!
PROOF. 40_bitcodec.md: the word operations (R90), the rotator (R91, R92), `le_bytes` (R93) and ROTL
(R95). The idea for the rotator: bit `j` of the result is bit `(j + (32 - n)) mod 32` of the
operand, and each clause about bits is arithmetic on that index.
-/
namespace Sys2Proof.Machine

/-! The word operations. -/

@[simp] theorem toNat_add32 (a b : Word) : (add32 a b).toNat = (a.toNat + b.toNat) % 2 ^ 32 :=
  BitVec.toNat_add a b

@[simp] theorem toNat_shl32 (a : Word) (k : Nat) :
    (shl32 a k).toNat = a.toNat * 2 ^ k % 2 ^ 32 := by
  rw [shl32, BitVec.toNat_shiftLeft, Nat.shiftLeft_eq]

@[simp] theorem toNat_shr32 (a : Word) (k : Nat) : (shr32 a k).toNat = a.toNat / 2 ^ k := by
  rw [shr32, BitVec.toNat_ushiftRight, Nat.shiftRight_eq_div_pow]

theorem add32_comm (a b : Word) : add32 a b = add32 b a :=
  BitVec.add_comm a b

theorem add32_assoc (a b c : Word) : add32 (add32 a b) c = add32 a (add32 b c) :=
  BitVec.add_assoc a b c

/-- R90: `1 + 1` carries into bit 1, which XOR with 1 on each side loses. -/
theorem not_xor_distrib_add32 : add32 1 1 ^^^ 1 ≠ add32 (1 ^^^ 1) (1 ^^^ 1) := by decide

/-- R90: `1 ^^^ 1 = 0`, and adding 1 on each side XORs away. -/
theorem not_add32_distrib_xor : add32 (1 ^^^ 1) 1 ≠ add32 1 1 ^^^ add32 1 1 := by decide

/-- Settles O12; the shifts' bound on `k` is not needed. -/
theorem wordArithmetic : Obligations.WordArithmetic :=
  ⟨toNat_add32, fun a k _ => toNat_shl32 a k, fun a k _ => toNat_shr32 a k,
    fun _ _ _ => ⟨BitVec.getLsbD_xor, BitVec.getLsbD_or, BitVec.getLsbD_and⟩,
    fun a b c => ⟨add32_comm a b, add32_assoc a b c, BitVec.xor_comm a b, BitVec.xor_assoc a b c⟩,
    ⟨1, 1, 1, not_xor_distrib_add32⟩, ⟨1, 1, 1, not_add32_distrib_xor⟩⟩

/-! The rotator. -/

/-- R91's formula on numbers; it holds at `n = 0` too. -/
theorem toNat_rotl32 (v : Word) (n : RotAmount) :
    (rotl32 v n).toNat = (v.toNat * 2 ^ n.toNat % 2 ^ 32) ||| (v.toNat / 2 ^ (32 - n.toNat)) := by
  rw [rotl32, BitVec.toNat_or, toNat_shl32, toNat_shr32]

/-- The rotator is the library's rotation. -/
theorem rotl32_eq_rotateLeft (v : Word) (n : RotAmount) : rotl32 v n = v.rotateLeft n.toNat := by
  rw [BitVec.rotateLeft_def, Nat.mod_eq_of_lt n.isLt, rotl32, shl32, shr32]

/-- Where each bit of the result comes from. -/
theorem getLsbD_rotl32 (v : Word) (n : RotAmount) {j : Nat} (hj : j < 32) :
    (rotl32 v n).getLsbD j = v.getLsbD ((j + (32 - n.toNat)) % 32) := by
  have hn : n.toNat < 32 := n.isLt
  rw [rotl32_eq_rotateLeft, BitVec.getLsbD_rotateLeft_of_le hn]
  by_cases hlow : j < n.toNat
  · have hindex : (j + (32 - n.toNat)) % 32 = 32 - n.toNat + j := by omega
    simp [hlow, hindex]
  · have hindex : (j + (32 - n.toNat)) % 32 = j - n.toNat := by omega
    simp [hlow, hj, hindex]

/-- R91: where each bit of the operand goes. -/
theorem getLsbD_rotl32_add_mod (v : Word) (n : RotAmount) {i : Nat} (hi : i < 32) :
    (rotl32 v n).getLsbD ((i + n.toNat) % 32) = v.getLsbD i := by
  have hn : n.toNat < 32 := n.isLt
  have hindex : ((i + n.toNat) % 32 + (32 - n.toNat)) % 32 = i := by omega
  rw [getLsbD_rotl32 v n (Nat.mod_lt _ (by decide)), hindex]

/-- Settles O13. -/
theorem rotatorMovesEveryBit : Obligations.RotatorMovesEveryBit :=
  fun v n => ⟨fun _ => toNat_rotl32 v n, fun _ hi => getLsbD_rotl32_add_mod v n hi⟩

/-! R92's fixed words and R95's special amounts. -/

@[simp] theorem rotl32_zero_amount (v : Word) : rotl32 v 0 = v := by
  refine BitVec.eq_of_getLsbD_eq fun j hj => ?_
  have hn : (0 : RotAmount).toNat = 0 := rfl
  have hindex : (j + (32 - 0)) % 32 = j := by omega
  rw [getLsbD_rotl32 v 0 hj, hn, hindex]

@[simp] theorem rotl32_zero (n : RotAmount) : rotl32 0 n = 0 := by
  refine BitVec.eq_of_getLsbD_eq fun j hj => ?_
  rw [getLsbD_rotl32 _ n hj, BitVec.ofNat_eq_ofNat, BitVec.getLsbD_zero, BitVec.getLsbD_zero]

/-- Every bit of all ones is 1, so it does not matter which one a result bit comes from. -/
@[simp] theorem rotl32_allOnes (n : RotAmount) : rotl32 0xFFFFFFFF n = 0xFFFFFFFF := by
  refine BitVec.eq_of_getLsbD_eq fun j hj => ?_
  have hones : ∀ i < 32, (BitVec.allOnes 32).getLsbD i = true := fun i hi => by
    rw [BitVec.getLsbD_allOnes, decide_eq_true hi]
  rw [getLsbD_rotl32 _ n hj]
  exact (hones _ (Nat.mod_lt _ (by decide))).trans (hones j hj).symm

theorem rotl32_31 (v : Word) : rotl32 v 31 = v.rotateRight 1 :=
  BitVec.or_comm _ _

theorem rotl32_16 (v : Word) : rotl32 v 16 = v.extractLsb' 0 16 ++ v.extractLsb' 16 16 := by
  refine BitVec.eq_of_getLsbD_eq fun j hj => ?_
  have hn : (16 : RotAmount).toNat = 16 := rfl
  rw [getLsbD_rotl32 v 16 hj, hn, BitVec.getLsbD_append]
  by_cases hlow : j < 16
  · have hindex : (j + (32 - 16)) % 32 = 16 + j := by omega
    rw [hindex]
    simp [hlow]
  · have hindex : (j + (32 - 16)) % 32 = j - 16 := by omega
    have hhigh : j - 16 < 16 := by omega
    rw [hindex]
    simp [hlow, hhigh]

/-! `le_bytes`. -/

@[simp] theorem length_leBytes (value length : Nat) : (leBytes value length).length = length := by
  rw [leBytes, List.length_map, List.length_range]

theorem getElem?_leBytes (value : Nat) {length k : Nat} (hk : k < length) :
    (leBytes value length)[k]? = some (BitVec.ofNat 8 (value / 2 ^ (8 * k) % 256)) := by
  rw [leBytes, List.getElem?_map, List.getElem?_range hk, Option.map_some]

/-- Settles O15: the mask of R93 makes each byte's number fit 8 bits. -/
theorem littleEndianBytes : Obligations.LittleEndianBytes := by
  refine fun value length => ⟨length_leBytes value length, fun k hk => ?_⟩
  rw [getElem?_leBytes value hk, Option.map_some, BitVec.toNat_ofNat, Nat.mod_mod]

/-! ROTL. -/

theorem exec_rotl (value : Word) (n : RotAmount) (s : State) :
    exec (.rotl value n) s = .next (respond .rot (0#96 ++ rotl32 value n) s) := by
  rw [← setWidth_word]
  rfl

/-- R66, R68: a reserved bit of format R is not ignored. -/
theorem decode_rotl_reserved {w : CommandWord} (hop : w.extractLsb' 64 8 = 0x06#8)
    (hres : w.extractLsb' 37 27 ≠ 0#27) : decode w = .error .reservedBits := by
  obtain ⟨-, -, -, -, -, hrotl, -⟩ := formatFields w
  rw [hrotl hop, if_neg hres]

/-- Settles O23. -/
theorem rotlBehaviour : Obligations.RotlBehaviour :=
  ⟨exec_rotl, fun v => ⟨rotl32_zero_amount v, rotl32_31 v, rotl32_16 v⟩,
    fun n => ⟨rotl32_zero n, rotl32_allOnes n⟩,
    fun _ hop hres => ⟨_, decode_rotl_reserved hop hres⟩⟩

end Sys2Proof.Machine
end

section
/-!
PROOF. 41_mixer.md R101 to R104: START, ABSORB, FINAL and RDDIG in full. Each is `guarded`, so it
ends in one of three ways: its own effect, its own fault, or the latched cause in FAULT phase. What
is left to each command is the fault its phase, count and operand give it.
-/
namespace Sys2Proof.Machine

/-! The three ways a guarded command ends. -/

theorem next_guarded_accepts {f : Option FaultCause} {e s : State} (hs : s.phase ≠ .fault)
    (hf : f = none) : (.next (guarded f e s) : Outcome) = .next e := by
  rw [hf, guarded_accepts hs]

/-- R135: outside FAULT phase a fault writes `PHASE` and `CAUSE`, answers, and changes nothing
else. -/
theorem next_guarded_faults {f : Option FaultCause} {c : FaultCause} {e s : State}
    (hs : s.phase ≠ .fault) (hf : f = some c) :
    (.next (guarded f e s) : Outcome) = .next { s with
      phase := .fault
      cause := c.code
      outbox := s.outbox ++ [responseWord .fault (c.code.setWidth 128)] } := by
  rw [hf, guarded_faults hs]
  rfl

/-- R122: in FAULT phase the latched cause is answered and nothing changes. -/
theorem next_guarded_in_fault {f : Option FaultCause} {e s : State} (hs : s.phase = .fault) :
    (.next (guarded f e s) : Outcome) = .next { s with
      outbox := s.outbox ++ [responseWord .fault (s.cause.setWidth 128)] } := by
  rw [guarded_in_fault hs]
  rfl

/-! START. -/

theorem phase_ne_fault_of_idle_or_done {s : State} (hp : s.phase = .idle ∨ s.phase = .done) :
    s.phase ≠ .fault := by
  rcases hp with hp | hp <;> simp [hp]

theorem startFault_of_absorbing (len : Word) {s : State} (hp : s.phase = .absorbing) :
    startFault len s = some .sequence := by
  simp [startFault, hp]

theorem startFault_of_idle_or_done (len : Word) {s : State}
    (hp : s.phase = .idle ∨ s.phase = .done) :
    startFault len s = if len.toNat % 8 = 0 then none else some .lenUnaligned := by
  simp only [← lenLowBits_eq_zero_iff]
  rcases hp with hp | hp <;> simp [startFault, hp]

theorem blockCount_eq_ofNat (len : Word) : blockCount len = BitVec.ofNat 29 (len.toNat / 8) := by
  rw [← blockCount_toNat, BitVec.ofNat_toNat, BitVec.setWidth_eq]

/-- R101, accepted: steps 1 and 2. -/
theorem exec_start_accepted {len : Word} {s : State} (hp : s.phase = .idle ∨ s.phase = .done)
    (h8 : len.toNat % 8 = 0) :
    exec (.start len) s = .next (respond .ack 0 { s with
      regs := foldLength s.iv len
      len := len
      cnt := BitVec.ofNat 29 (len.toNat / 8)
      phase := .absorbing }) := by
  have hf : startFault len s = none := (startFault_of_idle_or_done len hp).trans (if_pos h8)
  rw [← blockCount_eq_ofNat]
  exact next_guarded_accepts (phase_ne_fault_of_idle_or_done hp) hf

/-- Settles O18. -/
theorem startBehaviour : Obligations.StartBehaviour :=
  fun len _ => ⟨exec_start_accepted,
    fun hp h8 => next_guarded_faults (phase_ne_fault_of_idle_or_done hp)
      ((startFault_of_idle_or_done len hp).trans (if_neg h8)),
    fun hp => next_guarded_faults (by simp [hp]) (startFault_of_absorbing len hp),
    next_guarded_in_fault⟩

/-! ABSORB. -/

theorem absorbFault_eq_none {s : State} (hp : s.phase = .absorbing) (hc : s.cnt ≠ 0) :
    absorbFault s = none :=
  ((absorbFault_cases s).resolve_left fun ⟨hno, _⟩ => hno ⟨hp, hc⟩).2

theorem absorbFault_eq_sequence {s : State} (hno : ¬(s.phase = .absorbing ∧ s.cnt ≠ 0)) :
    absorbFault s = some .sequence :=
  ((absorbFault_cases s).resolve_right fun ⟨hyes, _⟩ => hno hyes).2

/-- A count that is not 0 does not wrap. -/
theorem sub_one_eq_ofNat {c : BlockCount} (hc : c ≠ 0) :
    c - 1 = BitVec.ofNat 29 (c.toNat - 1) := by
  bv_omega

/-- R102, accepted: step 3 for one block. -/
theorem exec_absorb_accepted (v0 v1 : Word) {s : State} (hp : s.phase = .absorbing)
    (hc : s.cnt ≠ 0) :
    exec (.absorb v0 v1) s = .next (respond .ack 0 { s with
      regs := mixRound s.regs v0 v1
      cnt := BitVec.ofNat 29 (s.cnt.toNat - 1) }) := by
  rw [← sub_one_eq_ofNat hc]
  exact next_guarded_accepts (by simp [hp]) (absorbFault_eq_none hp hc)

/-- Settles O19. -/
theorem absorbBehaviour : Obligations.AbsorbBehaviour := by
  refine fun v0 v1 s => ⟨exec_absorb_accepted v0 v1, fun hp => ?sequence, next_guarded_in_fault⟩
  case sequence =>
    have hs : s.phase ≠ .fault := by rcases hp with hp | hp | ⟨hp, -⟩ <;> simp [hp]
    have hno : ¬(s.phase = .absorbing ∧ s.cnt ≠ 0) := by
      rcases hp with hp | hp | ⟨-, hc⟩
      · simp [hp]
      · simp [hp]
      · exact fun h => h.2 hc
    exact next_guarded_faults hs (absorbFault_eq_sequence hno)

/-! FINAL. -/

theorem finalFault_eq_none {s : State} (hp : s.phase = .absorbing) (hc : s.cnt = 0) :
    finalFault s = none :=
  ((finalFault_cases s).resolve_left fun ⟨hno, _⟩ => hno ⟨hp, hc⟩).2

theorem finalFault_eq_sequence {s : State} (hno : ¬(s.phase = .absorbing ∧ s.cnt = 0)) :
    finalFault s = some .sequence :=
  ((finalFault_cases s).resolve_right fun ⟨hyes, _⟩ => hno hyes).2

/-- R103, accepted: steps 4 to 7. -/
theorem exec_final_accepted {s : State} (hp : s.phase = .absorbing) (hc : s.cnt = 0) :
    exec .final s = .next (respond .digest (digestData (finalize s.regs s.len)) { s with
      regs := finalize s.regs s.len
      phase := .done }) :=
  next_guarded_accepts (by simp [hp]) (finalFault_eq_none hp hc)

/-- Settles O20. -/
theorem finalBehaviour : Obligations.FinalBehaviour := by
  refine fun s => ⟨exec_final_accepted, fun hp => ?sequence, next_guarded_in_fault⟩
  case sequence =>
    have hs : s.phase ≠ .fault := by rcases hp with hp | hp | ⟨hp, -⟩ <;> simp [hp]
    have hno : ¬(s.phase = .absorbing ∧ s.cnt = 0) := by
      rcases hp with hp | hp | ⟨-, hc⟩
      · simp [hp]
      · simp [hp]
      · exact fun h => hc h.2
    exact next_guarded_faults hs (finalFault_eq_sequence hno)

/-! RDDIG. -/

theorem rddigFault_eq_none {s : State} (hp : s.phase = .done) : rddigFault s = none :=
  ((rddigFault_cases s).resolve_left fun ⟨hno, _⟩ => hno hp).2

theorem rddigFault_eq_sequence {s : State} (hno : s.phase ≠ .done) :
    rddigFault s = some .sequence :=
  ((rddigFault_cases s).resolve_right fun ⟨hyes, _⟩ => hno hyes).2

/-- R104, accepted: the held digest. -/
theorem exec_rddig_accepted {s : State} (hp : s.phase = .done) :
    exec .rddig s = .next (respond .digest (digestData s.regs) s) :=
  next_guarded_accepts (by simp [hp]) (rddigFault_eq_none hp)

/-- Settles O21. -/
theorem rddigBehaviour : Obligations.RddigBehaviour := by
  refine fun s => ⟨exec_rddig_accepted, fun hp => ?sequence, next_guarded_in_fault⟩
  case sequence =>
    have hs : s.phase ≠ .fault := by rcases hp with hp | hp <;> simp [hp]
    have hno : s.phase ≠ .done := by rcases hp with hp | hp <;> simp [hp]
    exact next_guarded_faults hs (rddigFault_eq_sequence hno)

end Sys2Proof.Machine
end

section
/-!
PROOF. 42_control.md R120 to R122: RDSTAT, RESET, and what FAULT phase refuses. In FAULT phase a
command either is RESET, is one of the two that write no state, or goes through `guarded`, which
answers the latched cause.
-/
namespace Sys2Proof.Machine

/-! FAULT phase. -/

/-- R122: every command but RESET, RDSTAT and ROTL goes through the guard. -/
theorem exec_refused_in_fault {i : Instr} {s : State} (hs : s.phase = .fault)
    (hreset : i ≠ .reset) (hfree : i.isFree = false) :
    exec i s = .next { s with
      outbox := s.outbox ++ [responseWord .fault (s.cause.setWidth 128)] } := by
  cases i with
  | start _ | absorb _ _ | final | rddig => exact next_guarded_in_fault hs
  | rdstat | rotl _ _ => cases hfree
  | reset => exact absurd rfl hreset

/-- R158: RDSTAT and ROTL answer and write no state, in FAULT phase too. -/
theorem exec_free {i : Instr} (hfree : i.isFree = true) (s : State) :
    ∃ r, exec i s = .next { s with outbox := s.outbox ++ [r] } := by
  cases i with
  | rdstat => exact ⟨_, rfl⟩
  | rotl value n => exact ⟨_, exec_rotl value n s⟩
  | start _ | absorb _ _ | final | rddig | reset => cases hfree

theorem runWord_illegal_in_fault {w : CommandWord} {e : IllegalWord} {s : State}
    (hs : s.phase = .fault) (hd : decode w = .error e) :
    runWord w s = .next { s with
      outbox := s.outbox ++ [responseWord .fault (s.cause.setWidth 128)] } :=
  (runWord_error hd).trans (next_guarded_in_fault hs)

/-- Settles O32: a refused word is an illegal one or a command that goes through the guard. -/
theorem faultPhaseRefuses : Obligations.FaultPhaseRefuses := by
  refine fun w s hs => ⟨fun i hd _ => runWord_ok hd, fun hrefused => ?_⟩
  cases hd : decode w with
  | error e => exact runWord_illegal_in_fault hs hd
  | ok i =>
    obtain ⟨hreset, hfree⟩ := hrefused i hd
    exact (runWord_ok hd).trans (exec_refused_in_fault hs hreset hfree)

/-! RDSTAT. -/

/-- R27: the view is a concatenation, so each of its bit ranges is one of the parts. -/
theorem extractLsb'_statusView (s : State) :
    (statusView s).extractLsb' 0 2 = s.phase.code ∧
    (statusView s).extractLsb' 2 2 = 0 ∧
    (statusView s).extractLsb' 4 4 = s.cause ∧
    (statusView s).extractLsb' 8 24 = 0 ∧
    (statusView s).extractLsb' 32 32 = s.len ∧
    (statusView s).extractLsb' 64 29 = s.cnt ∧
    (statusView s).extractLsb' 93 35 = 0 := by
  have hview : (statusView s).extractLsb' 0 (35 + 29 + 32 + 24 + 4 + 2 + 2) =
      0#35 ++ s.cnt ++ s.len ++ 0#24 ++ s.cause ++ 0#2 ++ s.phase.code :=
    BitVec.extractLsb'_eq_self
  simp only [extractLsb'_eq_append_iff] at hview
  obtain ⟨⟨⟨⟨⟨⟨hhigh, hcnt⟩, hlen⟩, hmid⟩, hcause⟩, hlow⟩, hphase⟩ := hview
  exact ⟨hphase, hlow, hcause, hmid, hlen, hcnt, hhigh⟩

/-- Settles O22. -/
theorem rdstatBehaviour : Obligations.RdstatBehaviour := by
  intro s
  obtain ⟨hphase, hrest⟩ := extractLsb'_statusView s
  exact ⟨statusView s, rfl, hphase.trans (by cases s.phase <;> rfl), hrest⟩

/-! RESET. -/

/-- R63, R68: no bit of RESET's operand field is ignored. -/
theorem decode_reset_reserved {w : CommandWord} (hop : w.extractLsb' 64 8 = 0x07#8)
    (harg : w.extractLsb' 0 64 ≠ 0#64) : decode w = .error .reservedBits := by
  obtain ⟨-, -, -, -, -, -, hreset, -⟩ := formatFields w
  rw [hreset hop, if_neg harg]

/-- R122, R137: FAULT phase refuses every command but RESET and the free ones, and neither a refused
command nor a free one writes `PHASE`. -/
theorem eq_reset_of_leaves_fault {i : Instr} {s t : State} (hs : s.phase = .fault)
    (hexec : exec i s = .next t) (ht : t.phase ≠ .fault) : i = .reset := by
  by_contra hreset
  have hanswers : ∃ r, exec i s = .next { s with outbox := s.outbox ++ [r] } := by
    cases hfree : i.isFree with
    | false => exact ⟨_, exec_refused_in_fault hs hreset hfree⟩
    | true => exact exec_free hfree s
  obtain ⟨r, hr⟩ := hanswers
  rw [hr] at hexec
  cases hexec
  exact ht hs

/-- Settles O24. -/
theorem resetBehaviour : Obligations.ResetBehaviour := by
  refine ⟨fun s => ⟨freeQuad s.fresh, s.fresh + 4, rfl⟩, fun w s hop harg => ?illegal,
    fun _ _ _ => eq_reset_of_leaves_fault⟩
  case illegal =>
    have hd := decode_reset_reserved hop harg
    exact ⟨fun hs => (runWord_error hd).trans (congrArg _ (illegalCommand_outside_fault hs)),
      fun hs => runWord_illegal_in_fault hs hd⟩

end Sys2Proof.Machine
end

section
/-!
PROOF. 60_exceptions.md R131 to R135: when each fault is raised, what taking it writes, and which of
several is reported. The fault of a word outside FAULT phase is a function of the word and the state
(`wordFault`): with a fault the word takes it and does nothing else, without one it does not enter
FAULT phase. The conditions of R131 to R133 are then read off that function.
-/
namespace Sys2Proof.Machine

theorem FaultCause.code_inj {a b : FaultCause} : a.code = b.code ↔ a = b := by
  cases a <;> cases b <;> decide

/-! The fault of a word outside FAULT phase. -/

/-- The fault a command has outside FAULT phase, in the state it finds (R131, R132). -/
def commandFault (i : Instr) (s : State) : Option FaultCause :=
  match i with
  | .start len => startFault len s
  | .absorb _ _ => absorbFault s
  | .final => finalFault s
  | .rddig => rddigFault s
  | .rdstat => none
  | .rotl _ _ => none
  | .reset => none

/-- The fault a word has outside FAULT phase: its command's, or ILLEGAL_CMD (R133). -/
def wordFault (w : CommandWord) (s : State) : Option FaultCause :=
  match decode w with
  | .ok i => commandFault i s
  | .error _ => some .illegalCmd

theorem wordFault_ok {w : CommandWord} {i : Instr} (hd : decode w = .ok i) (s : State) :
    wordFault w s = commandFault i s := by
  simp [wordFault, hd]

theorem wordFault_error {w : CommandWord} {e : IllegalWord} (hd : decode w = .error e) (s : State) :
    wordFault w s = some .illegalCmd := by
  simp [wordFault, hd]

theorem exec_takes_commandFault {i : Instr} {s : State} {c : FaultCause} (hs : s.phase ≠ .fault)
    (hf : commandFault i s = some c) : exec i s = .next (raiseFault c s) := by
  cases i with
  | start _ | absorb _ _ | final | rddig => exact next_guarded_faults hs hf
  | rdstat | rotl _ _ | reset => cases hf

theorem exec_stays_out_of_fault {i : Instr} {s : State} (hs : s.phase ≠ .fault)
    (hf : commandFault i s = none) : ∃ t, exec i s = .next t ∧ t.phase ≠ .fault := by
  cases i with
  | start len => exact ⟨_, next_guarded_accepts hs hf, by simp⟩
  | absorb v0 v1 => exact ⟨_, next_guarded_accepts hs hf, hs⟩
  | final => exact ⟨_, next_guarded_accepts hs hf, by simp⟩
  | rddig => exact ⟨_, next_guarded_accepts hs hf, hs⟩
  | rdstat | rotl _ _ => exact ⟨_, rfl, hs⟩
  | reset => exact ⟨_, rfl, by simp⟩

/-- R135: a word that has a fault takes it, and only such a word enters FAULT phase. -/
theorem runWord_outside_fault (w : CommandWord) {s : State} (hs : s.phase ≠ .fault) :
    (∃ c, wordFault w s = some c ∧ runWord w s = .next (raiseFault c s)) ∨
    (wordFault w s = none ∧ ∃ t, runWord w s = .next t ∧ t.phase ≠ .fault) := by
  cases hd : decode w with
  | error e =>
    exact .inl ⟨_, wordFault_error hd s, (runWord_error hd).trans (congrArg _ (guarded_faults hs))⟩
  | ok i =>
    rw [wordFault_ok hd, runWord_ok hd]
    cases hf : commandFault i s with
    | some c => exact .inl ⟨c, rfl, exec_takes_commandFault hs hf⟩
    | none => exact .inr ⟨rfl, exec_stays_out_of_fault hs hf⟩

/-- Settles O30. -/
theorem faultEntryWritesNothingElse : Obligations.FaultEntryWritesNothingElse := by
  intro w s t hs hrun ht
  rcases runWord_outside_fault w hs with ⟨c, -, h⟩ | ⟨-, u, h, hu⟩
  · cases h.symm.trans hrun
    exact ⟨c.code, c.code_cases, rfl⟩
  · cases h.symm.trans hrun
    exact absurd ht hu

/-! The conditions of each fault. -/

theorem startFault_eq_some_iff (len : Word) {s : State} (hs : s.phase ≠ .fault) (c : FaultCause) :
    startFault len s = some c ↔
      (c = .lenUnaligned ∧ (s.phase = .idle ∨ s.phase = .done) ∧ len.toNat % 8 ≠ 0) ∨
      (c = .sequence ∧ s.phase = .absorbing) := by
  rcases startFault_cases len s with ⟨hp, h⟩ | ⟨hp, h8, h⟩ | ⟨hp, h8, h⟩
  · simp [h, hp.resolve_right hs, eq_comm]
  · rcases hp with hp | hp <;> simp [h, hp, h8, eq_comm]
  · rcases hp with hp | hp <;> simp [h, hp, h8]

theorem absorbFault_eq_some_iff {s : State} (hs : s.phase ≠ .fault) (c : FaultCause) :
    absorbFault s = some c ↔ c = .sequence ∧
      (s.phase = .idle ∨ s.phase = .done ∨ (s.phase = .absorbing ∧ s.cnt = 0)) := by
  cases hp : s.phase with
  | fault => exact absurd hp hs
  | idle | absorbing | done => simp [absorbFault, hp, @eq_comm _ c, and_comm]

theorem finalFault_eq_some_iff {s : State} (hs : s.phase ≠ .fault) (c : FaultCause) :
    finalFault s = some c ↔ c = .sequence ∧
      (s.phase = .idle ∨ s.phase = .done ∨ (s.phase = .absorbing ∧ s.cnt ≠ 0)) := by
  cases hp : s.phase with
  | fault => exact absurd hp hs
  | idle | absorbing | done => simp [finalFault, hp, @eq_comm _ c, and_comm]

theorem rddigFault_eq_some_iff {s : State} (hs : s.phase ≠ .fault) (c : FaultCause) :
    rddigFault s = some c ↔ c = .sequence ∧ (s.phase = .idle ∨ s.phase = .absorbing) := by
  cases hp : s.phase with
  | fault => exact absurd hp hs
  | idle | absorbing | done => simp [rddigFault, hp, @eq_comm _ c]

/-- R131 to R133, with the priority of R134: when a word has which fault. -/
theorem wordFault_eq_some_iff (w : CommandWord) {s : State} (hs : s.phase ≠ .fault)
    (c : FaultCause) :
    wordFault w s = some c ↔
      (c = .lenUnaligned ∧ ∃ len, decode w = .ok (.start len) ∧
        (s.phase = .idle ∨ s.phase = .done) ∧ len.toNat % 8 ≠ 0) ∨
      (c = .sequence ∧
        (((∃ len, decode w = .ok (.start len)) ∧ s.phase = .absorbing) ∨
        ((∃ v0 v1, decode w = .ok (.absorb v0 v1)) ∧
          (s.phase = .idle ∨ s.phase = .done ∨ (s.phase = .absorbing ∧ s.cnt = 0))) ∨
        (decode w = .ok .final ∧
          (s.phase = .idle ∨ s.phase = .done ∨ (s.phase = .absorbing ∧ s.cnt ≠ 0))) ∨
        (decode w = .ok .rddig ∧ (s.phase = .idle ∨ s.phase = .absorbing)))) ∨
      (c = .illegalCmd ∧ ∃ e, decode w = .error e) := by
  cases hd : decode w with
  | error e => simp [wordFault_error hd, @eq_comm _ c]
  | ok i =>
    rw [wordFault_ok hd]
    cases i with
    | start len => simp [commandFault, startFault_eq_some_iff len hs]
    | absorb v0 v1 => simp [commandFault, absorbFault_eq_some_iff hs]
    | final => simp [commandFault, finalFault_eq_some_iff hs]
    | rddig => simp [commandFault, rddigFault_eq_some_iff hs]
    | rdstat | rotl _ _ | reset => simp [commandFault]

/-- The phase and cause a word leaves report its fault, whatever `CAUSE` held before. -/
theorem exists_runWord_reports_wordFault (w : CommandWord) {s : State} (hs : s.phase ≠ .fault) :
    ∃ t, runWord w s = .next t ∧
      (∀ c : FaultCause, (t.phase = .fault ∧ t.cause = c.code) ↔ wordFault w s = some c) ∧
      (t.phase = .fault → t.regs = s.regs) := by
  rcases runWord_outside_fault w hs with ⟨c, hf, h⟩ | ⟨hf, t, h, ht⟩
  · exact ⟨_, h, by simp [hf, FaultCause.code_inj], fun _ => rfl⟩
  · exact ⟨t, h, by simp [hf, ht], fun hfault => absurd hfault ht⟩

/-- Settles O29. -/
theorem faultsExactlyWhen : Obligations.FaultsExactlyWhen := by
  intro w s hs
  obtain ⟨t, hrun, hreports, hregs⟩ := exists_runWord_reports_wordFault w hs
  have hiff := fun c => (hreports c).trans (wordFault_eq_some_iff w hs c)
  exact ⟨t, hrun, by simpa [FaultCause.code] using hiff .lenUnaligned,
    by simpa [FaultCause.code] using hiff .sequence,
    by simpa [FaultCause.code] using hiff .illegalCmd, hregs⟩

/-! Priority. -/

/-- R64, R68: a reserved bit of format L is not ignored. -/
theorem decode_start_reserved {w : CommandWord} (hop : w.extractLsb' 64 8 = 0x01#8)
    (hres : w.extractLsb' 32 32 ≠ 0#32) : decode w = .error .reservedBits := by
  obtain ⟨hstart, -⟩ := formatFields w
  rw [hstart hop, if_neg hres]

/-- R134: in FAULT phase a command other than RESET keeps `CAUSE`. -/
theorem exec_keeps_cause_in_fault {i : Instr} {s t : State} (hs : s.phase = .fault)
    (hreset : i ≠ .reset) (hexec : exec i s = .next t) : t.cause = s.cause := by
  cases hfree : i.isFree with
  | false =>
    cases (exec_refused_in_fault hs hreset hfree).symm.trans hexec
    rfl
  | true =>
    obtain ⟨r, hr⟩ := exec_free hfree s
    cases hr.symm.trans hexec
    rfl

/-- R134: in FAULT phase the first fault is kept until a RESET. -/
theorem runWord_keeps_cause_in_fault {w : CommandWord} {s t : State} (hs : s.phase = .fault)
    (hrun : runWord w s = .next t) (ht : t.phase = .fault) : t.cause = s.cause := by
  cases hd : decode w with
  | error e =>
    cases (runWord_illegal_in_fault hs hd).symm.trans hrun
    rfl
  | ok i =>
    rw [runWord_ok hd] at hrun
    by_cases hreset : i = .reset
    · subst hreset
      cases hrun
      simp at ht
    · exact exec_keeps_cause_in_fault hs hreset hrun

/-- Settles O31. -/
theorem faultPriority : Obligations.FaultPriority := by
  refine ⟨fun len s hp _ => ?sequence, fun w s hs hop hres => ?illegal,
    fun _ _ _ => runWord_keeps_cause_in_fault⟩
  case sequence =>
    obtain ⟨-, -, hsequence, -⟩ := startBehaviour len s
    exact ⟨_, hsequence hp, rfl, rfl⟩
  case illegal =>
    have hd := decode_start_reserved hop hres
    exact ⟨_, (runWord_error hd).trans (congrArg _ (illegalCommand_outside_fault hs)), rfl, rfl⟩

end Sys2Proof.Machine
end

section
/-!
PROOF. 70_reset_and_hazards.md R157: `IV` is configuration. Each event keeps it: a command word by
what every word leaves alone (`runWord_next`), the reset input and power-up by their field laws.
-/
namespace Sys2Proof.Machine

/-- R157: no command word, legal or not, writes `IV`. -/
theorem runWord_keeps_iv {w : CommandWord} {s t : State} (hrun : runWord w s = .next t) :
    t.iv = s.iv := by
  obtain ⟨u, _, hu, -, -, -, hiv⟩ := runWord_next w s
  cases hu.symm.trans hrun
  exact hiv

/-- Settles O45, event by event. -/
theorem ivNeverChanges : Obligations.IvNeverChanges := by
  intro s t hstep
  rcases step_cases s with ⟨-, hwait⟩ | ⟨_, _, -, -, hstop⟩ | ⟨_, _, -, -, hword⟩ |
    ⟨_, -, hreset⟩ | ⟨_, -, hpower⟩
  · cases hwait.symm.trans hstep
    rfl
  · cases hstop.symm.trans hstep
  · have hkeeps := runWord_keeps_iv (hword.symm.trans hstep)
    exact hkeeps
  · cases hreset.symm.trans hstep
    exact assertResetInput_iv _
  · cases hpower.symm.trans hstep
    exact applyPower_iv _

end Sys2Proof.Machine
end

section
/-!
PROOF. 30_encoding.md R60 to R75: encoder and decoder undo each other, the rows of the opcode table
exclude each other, the words of assembler lines, and the step that runs a word. The idea: a
command's word is described by its fields (`HasFields`); a word is the encoding of a command, and
decodes to it, exactly when it has the command's fields.
-/
namespace Sys2Proof.Machine

/-! Encoder and decoder. -/

/-- R63 to R66: the word has the opcode and operands of the command, and zeros in its format's
reserved bits. -/
def HasFields (w : CommandWord) : Instr → Prop
  | .start len =>
    w.extractLsb' 64 8 = 0x01#8 ∧ w.extractLsb' 32 32 = 0#32 ∧ w.extractLsb' 0 32 = len
  | .absorb v0 v1 =>
    w.extractLsb' 64 8 = 0x02#8 ∧ w.extractLsb' 32 32 = v1 ∧ w.extractLsb' 0 32 = v0
  | .final => w.extractLsb' 64 8 = 0x03#8 ∧ w.extractLsb' 0 64 = 0#64
  | .rddig => w.extractLsb' 64 8 = 0x04#8 ∧ w.extractLsb' 0 64 = 0#64
  | .rdstat => w.extractLsb' 64 8 = 0x05#8 ∧ w.extractLsb' 0 64 = 0#64
  | .rotl value n =>
    w.extractLsb' 64 8 = 0x06#8 ∧ w.extractLsb' 37 27 = 0#27 ∧ w.extractLsb' 32 5 = n ∧
      w.extractLsb' 0 32 = value
  | .reset => w.extractLsb' 64 8 = 0x07#8 ∧ w.extractLsb' 0 64 = 0#64

/-- A word is a concatenation when its two parts are. -/
theorem eq_append_iff {a b : Nat} (x : BitVec (b + a)) (hi : BitVec b) (lo : BitVec a) :
    x = hi ++ lo ↔ x.extractLsb' a b = hi ∧ x.extractLsb' 0 a = lo := by
  simpa [BitVec.extractLsb'_eq_self] using extractLsb'_eq_append_iff x 0 hi lo

/-- R73: the encoder's word is the one with the command's fields. -/
theorem eq_encode_iff_hasFields (w : CommandWord) (i : Instr) : w = encode i ↔ HasFields w i := by
  cases i with
  | start len =>
    exact (eq_append_iff (b := 8 + 32) w (0x01#8 ++ 0#32) len).trans
      (by rw [extractLsb'_eq_append_iff, and_assoc])
  | absorb v0 v1 =>
    exact (eq_append_iff (b := 8 + 32) w (0x02#8 ++ v1) v0).trans
      (by rw [extractLsb'_eq_append_iff, and_assoc])
  | rotl value n =>
    exact (eq_append_iff (b := 8 + 27 + 5) w (0x06#8 ++ 0#27 ++ n) value).trans
      (by rw [extractLsb'_eq_append_iff, extractLsb'_eq_append_iff, and_assoc, and_assoc])
  | final | rddig | rdstat | reset => exact eq_append_iff (b := 8) w _ 0#64

theorem ite_eq_ok_iff {α ε : Type} (p : Prop) [Decidable p] (a i : α) (e : ε) :
    (if p then Except.ok a else Except.error e) = Except.ok i ↔ p ∧ a = i := by
  split <;> simp [*]

/-- R62 to R68: the decoder's branch for each opcode asks for the fields of its command. -/
theorem decode_eq_ok_iff_hasFields (w : CommandWord) (i : Instr) :
    decode w = .ok i ↔ HasFields w i := by
  obtain ⟨hstart, habsorb, hfinal, hrddig, hrdstat, hrotl, hreset, hundefined⟩ := formatFields w
  rcases opcode_cases (w.extractLsb' 64 8) with h | h | h | h | h | h | h | h
  · rw [hstart h, ite_eq_ok_iff]
    cases i <;> simp [HasFields, h]
  · rw [habsorb h]
    cases i <;> simp [HasFields, h, and_comm]
  · rw [hfinal h, ite_eq_ok_iff]
    cases i <;> simp [HasFields, h]
  · rw [hrddig h, ite_eq_ok_iff]
    cases i <;> simp [HasFields, h]
  · rw [hrdstat h, ite_eq_ok_iff]
    cases i <;> simp [HasFields, h]
  · rw [hrotl h, ite_eq_ok_iff]
    cases i <;> simp [HasFields, h, and_comm]
  · rw [hreset h, ite_eq_ok_iff]
    cases i <;> simp [HasFields, h]
  · have hne := undefinedOpcode_ne h
    rw [hundefined h]
    cases i <;> simp [HasFields, hne]

/-- The well-formed words are exactly the encodings of commands, each of its own. -/
theorem decode_eq_ok_iff (w : CommandWord) (i : Instr) : decode w = .ok i ↔ w = encode i :=
  (decode_eq_ok_iff_hasFields w i).trans (eq_encode_iff_hasFields w i).symm

@[simp] theorem decode_encode (i : Instr) : decode (encode i) = .ok i :=
  (decode_eq_ok_iff _ i).2 rfl

/-- Settles O1. -/
theorem decodeOfEncode : Obligations.DecodeOfEncode :=
  decode_encode

/-- Settles O2. -/
theorem encodeOfDecode : Obligations.EncodeOfDecode :=
  fun w i h => ((decode_eq_ok_iff w i).1 h).symm

/-- Settles O7, by evaluating the decoder. -/
theorem decodeSampleWords : Obligations.DecodeSampleWords :=
  ⟨rfl, rfl, rfl, rfl, rfl, rfl, rfl, rfl, rfl, rfl, rfl, rfl⟩

/-! The opcode table. -/

/-- Every row's mask covers the opcode, so a row accepts only words with its pattern's opcode. -/
theorem opcode_of_accepts {w : CommandWord} {r : OpcodeRow} (hr : r ∈ opcodeTable)
    (h : r.accepts w = true) : w.extractLsb' 64 8 = r.pattern.extractLsb' 64 8 := by
  have hmask : ∀ r ∈ opcodeTable, r.mask.extractLsb' 64 8 = BitVec.allOnes 8 := by decide
  have hpattern : w &&& r.mask = r.pattern := eq_of_beq h
  rw [← hpattern, BitVec.extractLsb'_and, hmask r hr, BitVec.and_allOnes]

/-- R62: each row has an opcode of its own. -/
theorem row_eq_of_opcode_eq : ∀ r ∈ opcodeTable, ∀ q ∈ opcodeTable,
    r.pattern.extractLsb' 64 8 = q.pattern.extractLsb' 64 8 → r = q := by
  decide

/-- Settles O6. -/
theorem opcodeRowsDisjoint : Obligations.OpcodeRowsDisjoint :=
  fun _ r q hr hq hrw hqw =>
    row_eq_of_opcode_eq r hr q hq ((opcode_of_accepts hr hrw).symm.trans (opcode_of_accepts hq hqw))

/-! Assembler lines. -/

@[simp] theorem wordWellFormed_encode (i : Instr) : wordWellFormed (encode i) = true :=
  (decodesExactlyWellFormedWords (encode i)).1.1 ⟨i, decode_encode i⟩

/-- R73, R74: but for `.word72` the assembler only emits encodings of commands. -/
theorem exists_eq_encode_of_mem_words {l : AsmLine} (hl : ∀ x, l ≠ .word72 x) {w : CommandWord}
    (hw : w ∈ l.words) : ∃ i, encode i = w := by
  cases l with
  | word72 x => exact absurd rfl (hl x)
  | mix msg =>
    obtain ⟨i, -, hi⟩ := List.mem_map.1 hw
    exact ⟨i, hi⟩
  | start _ | absorb _ _ | final | rddig | rdstat | rotl _ _ | reset | absorbb _ _ _ _ _ _ _ _ =>
    exact ⟨_, (List.mem_singleton.1 hw).symm⟩

theorem words_of_assemble_eq_some {l : AsmLine} {ws : List CommandWord}
    (h : assemble l = some ws) : ws = l.words := by
  unfold assemble at h
  split at h
  · exact (Option.some.inj h).symm
  · cases h

/-- Settles O9. -/
theorem assembledLinesAreWellFormed : Obligations.AssembledLinesAreWellFormed := by
  intro l ws hassemble hl w hw
  rw [words_of_assemble_eq_some hassemble] at hw
  obtain ⟨i, rfl⟩ := exists_eq_encode_of_mem_words hl hw
  exact wordWellFormed_encode i

/-- An operand check decides between a line's words and none. -/
theorem assemble_eq_ite {l : AsmLine} {p : Prop} [Decidable p] {ws : List CommandWord}
    (hwf : l.wellFormed = true ↔ p) (hwords : p → l.words = ws) :
    assemble l = if p then some ws else none := by
  unfold assemble
  by_cases hp : p
  · rw [if_pos (hwf.2 hp), if_pos hp, hwords hp]
  · rw [if_neg (mt hwf.1 hp), if_neg hp]

/-- Settles O10: format L's zeros are the high half of its operand (`encode_start_ofNat`), the other
words differ from R73's only in how the concatenation is bracketed. -/
theorem assemblerWords : Obligations.AssemblerWords := by
  refine ⟨fun len => ?start, fun v0 v1 => ?absorb, rfl, rfl, rfl, fun value n => ?rotl, rfl,
    fun x => ?word72⟩
  case start =>
    exact assemble_eq_ite (by simp [AsmLine.wellFormed])
      fun h => congrArg (fun w => [w]) (encode_start_ofNat h)
  case absorb =>
    refine assemble_eq_ite (by simp [AsmLine.wellFormed]) fun _ => congrArg (fun w => [w]) ?_
    rw [encode, BitVec.append_assoc]
    rfl
  case rotl =>
    refine assemble_eq_ite (by simp [AsmLine.wellFormed]) fun _ => congrArg (fun w => [w]) ?_
    rw [encode, BitVec.append_assoc, BitVec.append_assoc, BitVec.append_assoc]
    rfl
  case word72 => exact assemble_eq_ite (by simp [AsmLine.wellFormed]) fun _ => rfl

/-! The step that runs a word. -/

/-- Settles O37. -/
theorem stepRunsDecodedCommand : Obligations.StepRunsDecodedCommand := by
  intro w rest s hready hin
  have hstep := step_eq_runWord hready hin
  exact ⟨fun i hd => hstep.trans (runWord_ok hd),
    fun e hd hs => (hstep.trans (runWord_error hd)).trans
      (congrArg _ (illegalCommand_outside_fault hs)),
    fun e hd hs => hstep.trans (runWord_illegal_in_fault hs hd)⟩

/-- At the table's full 72 bits no bit of a word is cut. -/
theorem tableWord_toNat (w : CommandWord) : tableWord 72 w.toNat = w := by
  rw [tableWord, Nat.mod_eq_of_lt w.isLt, BitVec.ofNat_toNat, BitVec.setWidth_eq]

/-- Settles O38. -/
theorem placedCommandRunsNext : Obligations.PlacedCommandRunsNext := by
  intro i s
  constructor
  · rw [decodeTableWord, tableWord_toNat, decode_encode]
    rfl
  · rw [State.withFetchWord, tableWord_toNat, step_placeWord, runWord_ok (decode_encode i)]

end Sys2Proof.Machine
end

section
/-!
PROOF. 40_bitcodec.md R92 and R94, and 41_mixer.md R111. Composition of rotations is arithmetic on
the index of `getLsbD_rotl32`; a rotation is then undone by the one of the negated amount. The value
of `le_word32` and the bits START folds in are those of a concatenation.
-/
namespace Sys2Proof.Machine

/-! The rotator. -/

/-- R92: amounts add mod 32. -/
theorem rotl32_rotl32 (v : Word) (a b : RotAmount) :
    rotl32 (rotl32 v a) b = rotl32 v (a + b) := by
  refine BitVec.eq_of_getLsbD_eq fun j hj => ?_
  have ha : a.toNat < 32 := a.isLt
  have hb : b.toNat < 32 := b.isLt
  have hadd : (a + b).toNat = (a.toNat + b.toNat) % 32 := BitVec.toNat_add a b
  have hindex : ((j + (32 - b.toNat)) % 32 + (32 - a.toNat)) % 32 =
      (j + (32 - (a + b).toNat)) % 32 := by
    omega
  rw [getLsbD_rotl32 _ b hj, getLsbD_rotl32 v a (Nat.mod_lt _ (by decide)), hindex,
    getLsbD_rotl32 v (a + b) hj]

/-- R92: rotating by the negated amount undoes a rotation. -/
theorem rotl32_injective (n : RotAmount) : Function.Injective (rotl32 · n) := by
  refine Function.LeftInverse.injective (g := (rotl32 · (-n))) fun v => ?_
  show rotl32 (rotl32 v n) (-n) = v
  rw [rotl32_rotl32, BitVec.add_right_neg]
  exact rotl32_zero_amount v

/-- R91: the left part holds the bits from `n` up, the right part those below `n`. -/
theorem shl32_and_shr32_eq_zero (v : Word) (n : RotAmount) :
    shl32 v n.toNat &&& shr32 v (32 - n.toNat) = 0 := by
  refine BitVec.eq_of_getLsbD_eq fun j _ => ?_
  rw [shl32, shr32, BitVec.getLsbD_and, BitVec.getLsbD_shiftLeft, BitVec.getLsbD_ushiftRight]
  by_cases hlow : j < n.toNat
  · simp [hlow]
  · have hhigh : 32 ≤ 32 - n.toNat + j := by omega
    simp [BitVec.getLsbD_of_ge v _ hhigh]

/-- Settles O14. -/
theorem rotatorIdentities : Obligations.RotatorIdentities :=
  ⟨rotl32_rotl32, fun _ _ n h => rotl32_injective n h, fun n => ⟨rotl32_zero n, rotl32_allOnes n⟩,
    rotl32_zero_amount, shl32_and_shr32_eq_zero⟩

/-! `le_word32`. -/

/-- The number of a concatenation. -/
theorem toNat_append_eq_add {a b : Nat} (hi : BitVec a) (lo : BitVec b) :
    (hi ++ lo).toNat = lo.toNat + hi.toNat * 2 ^ b := by
  rw [BitVec.toNat_append, ← Nat.shiftLeft_add_eq_or_of_lt lo.isLt, Nat.shiftLeft_eq, Nat.add_comm]

/-- R94 on numbers. -/
theorem toNat_leWord32 (b0 b1 b2 b3 : Byte) :
    (leWord32 b0 b1 b2 b3).toNat =
      b0.toNat + b1.toNat * 2 ^ 8 + b2.toNat * 2 ^ 16 + b3.toNat * 2 ^ 24 := by
  rw [leWord32_eq_append, toNat_append_eq_add, toNat_append_eq_add, toNat_append_eq_add]
  omega

/-- R94: a word is made of its own four bytes. -/
theorem leWord32_extractLsb' (v : Word) :
    leWord32 (v.extractLsb' 0 8) (v.extractLsb' 8 8) (v.extractLsb' 16 8) (v.extractLsb' 24 8) =
      v := by
  have hv := v.isLt
  refine BitVec.eq_of_toNat_eq ?_
  simp only [toNat_leWord32, BitVec.extractLsb'_toNat, Nat.shiftRight_eq_div_pow]
  omega

/-- Settles O16. -/
theorem littleEndianWordInverse : Obligations.LittleEndianWordInverse :=
  ⟨fun b0 b1 b2 b3 => ⟨toNat_leWord32 b0 b1 b2 b3, leBytes_leWord32 b0 b1 b2 b3⟩,
    fun v => ⟨_, _, _, _, leBytes_toNat v 4, leWord32_extractLsb' v⟩⟩

/-! The length fold of START. -/

/-- Settles O28: a left shift keeps the low bits and puts zeros below them. -/
theorem lengthFoldKeepsLowBits : Obligations.LengthFoldKeepsLowBits := by
  intro iv len
  have hshift : ∀ k (hk : k < 32), shl32 len k = _ := fun k hk =>
    BitVec.shiftLeft_eq_concat_of_lt hk
  exact ⟨rfl, congrArg (iv.w1 ^^^ ·) (hshift 8 (by decide)),
    congrArg (iv.w2 ^^^ ·) (hshift 16 (by decide)), congrArg (iv.w3 ^^^ ·) (hshift 24 (by decide))⟩

end Sys2Proof.Machine
end

section
/-!
PROOF. 10_state.md R35 and R36, 42_control.md R123, 60_exceptions.md R136 and R137: invariants,
phases and what a command writes. Each is read off what a command, a word and a step can do
(Laws/Exec.lean) and the commands' whole behaviour (R101 to R104).
-/
namespace Sys2Proof.Machine

/-! The invariants. -/

/-- R34: the values reset gives meet R35. -/
theorem meetsInvariants_of_reset_values {s : State} (hphase : s.phase = .idle)
    (hcause : s.cause = 0) (hlen : s.len = 0) (hcnt : s.cnt = 0) : MeetsInvariants s := by
  intro _
  simp [hphase, hcause, hlen, hcnt]

/-- Settles O43. -/
theorem resetStateMeetsInvariant : Obligations.ResetStateMeetsInvariant :=
  ⟨rfl, rfl, rfl, rfl, rfl, meetsInvariants_of_reset_values rfl rfl rfl rfl⟩

/-- R135: `CAUSE` becomes one of 1 to 3, and FAULT phase asks nothing of `LEN` and `CNT`. -/
theorem meetsInvariants_raiseFault (c : FaultCause) (s : State) :
    MeetsInvariants (raiseFault c s) := by
  intro _
  simp [c.code_le]

/-- Outside FAULT phase `CAUSE` is 0. -/
theorem cause_eq_zero_of_meetsInvariants {s : State} (hinv : MeetsInvariants s)
    (hready : s.awaitingReset = false) (hs : s.phase ≠ .fault) : s.cause = 0 := by
  obtain ⟨⟨hzero, -⟩, -⟩ := hinv hready
  exact hzero.2 hs

/-- R35, command by command. -/
theorem exec_keeps_invariants {i : Instr} {s t : State} (hinv : MeetsInvariants s)
    (hready : s.awaitingReset = false) (hexec : exec i s = .next t) : MeetsInvariants t := by
  have hcause := cause_eq_zero_of_meetsInvariants hinv hready
  obtain ⟨-, hlen, hcnt, -, -⟩ := hinv hready
  rcases exec_cases i s with ⟨-, h⟩ | ⟨-, c, -, h⟩ | ⟨len, -, hp, h8, h⟩ | ⟨v0, v1, -, hp, hc, h⟩ |
    ⟨-, hp, hc, h⟩ | ⟨-, -, h⟩ | ⟨-, h⟩ | ⟨_, _, -, h⟩ | ⟨-, h⟩
  all_goals cases h.symm.trans hexec
  · exact hinv
  · exact meetsInvariants_raiseFault c s
  · intro _
    have hz := hcause (phase_ne_fault_of_idle_or_done hp)
    simp [hz, h8, blockCount_toNat]
  · intro _
    have hz := hcause (by simp [hp])
    have hle := hcnt hp
    have hlt : (s.cnt - 1).toNat ≤ s.len.toNat / 8 := by bv_omega
    exact ⟨by simp [hz, hp], fun _ => hlen (.inl hp), fun _ => hlt, by simp [hp], by simp [hp]⟩
  · intro _
    have hz := hcause (by simp [hp])
    simp [hz, hc, hlen (.inl hp)]
  · exact hinv
  · exact hinv
  · exact hinv
  · exact meetsInvariants_of_reset_values rfl rfl rfl rfl

/-- R35, word by word. -/
theorem runWord_keeps_invariants {w : CommandWord} {s t : State} (hinv : MeetsInvariants s)
    (hready : s.awaitingReset = false) (hrun : runWord w s = .next t) : MeetsInvariants t := by
  cases hd : decode w with
  | ok i => exact exec_keeps_invariants hinv hready ((runWord_ok hd).symm.trans hrun)
  | error e =>
    cases (runWord_error hd).symm.trans hrun
    rcases illegalCommand_cases s with ⟨-, h⟩ | ⟨-, h⟩
    · rw [h]
      exact hinv
    · rw [h]
      exact meetsInvariants_raiseFault .illegalCmd s

/-- Settles O44, event by event; after a power-up the invariants ask nothing. -/
theorem stepKeepsInvariant : Obligations.StepKeepsInvariant := by
  intro s t hinv hstep
  rcases step_cases s with ⟨-, h⟩ | ⟨_, _, -, -, h⟩ | ⟨w, rest, -, hready, h⟩ | ⟨rest, -, h⟩ |
    ⟨rest, -, h⟩
  · cases h.symm.trans hstep
    exact hinv
  · cases h.symm.trans hstep
  · exact runWord_keeps_invariants (s := { s with inbox := rest }) hinv hready (h.symm.trans hstep)
  · cases h.symm.trans hstep
    exact meetsInvariants_of_reset_values rfl rfl rfl rfl
  · cases h.symm.trans hstep
    exact fun hready => Bool.noConfusion hready

/-! ABSORB and FINAL, accepted. -/

/-- R102: an ABSORB that ends in ABSORBING was accepted, with a block owed. -/
theorem exec_absorb_inv {v0 v1 : Word} {s t : State} (hexec : exec (.absorb v0 v1) s = .next t)
    (ht : t.phase = .absorbing) :
    s.phase = .absorbing ∧ s.cnt ≠ 0 ∧
      t = respond .ack 0 { s with regs := mixRound s.regs v0 v1, cnt := s.cnt - 1 } := by
  by_cases hs : s.phase = .fault
  · cases (next_guarded_in_fault hs).symm.trans hexec
    simp [hs] at ht
  · rcases absorbFault_cases s with ⟨-, hf⟩ | ⟨⟨hp, hc⟩, hf⟩
    · cases (next_guarded_faults hs hf).symm.trans hexec
      cases ht
    · cases (next_guarded_accepts hs hf).symm.trans hexec
      exact ⟨hp, hc, rfl⟩

/-- Settles O27. -/
theorem blockIndexAdvances : Obligations.BlockIndexAdvances := by
  intro v0 v1 s t hinv hready hexec ht
  obtain ⟨hp, hc, rfl⟩ := exec_absorb_inv hexec ht
  obtain ⟨-, -, hcnt, -⟩ := hinv hready
  have hle := hcnt hp
  have hsub : (s.cnt - 1).toNat + 1 = s.cnt.toNat := by bv_omega
  simp only [respond_cnt, respond_len]
  omega

/-- R109: XOR with the same word twice cancels. -/
theorem finalMix_w3 (rt : Quad) : (finalMix rt).w3 = rt.w1 := by
  simp only [finalMix]
  rw [BitVec.xor_comm rt.w1, ← BitVec.xor_assoc, BitVec.xor_self, BitVec.zero_xor]

/-- Settles O26. -/
theorem finalFourthWord : Obligations.FinalFourthWord := by
  intro s t hp hc hexec
  cases (exec_final_accepted hp hc).symm.trans hexec
  have hw3 := finalMix_w3 (finalRotate (finalChain s.regs s.len))
  refine ⟨hw3, ?_⟩
  rw [respond_regs]
  exact congrArg (· ^^^ _) hw3.symm

/-! Reads. -/

/-- Settles O25: the responses do not depend on the outbox. -/
theorem readsAreIdempotent : Obligations.ReadsAreIdempotent := by
  rintro i s (hfree | ⟨rfl, hp⟩)
  · cases i with
    | rdstat => exact ⟨_, rfl, rfl⟩
    | rotl value n => exact ⟨_, rfl, rfl⟩
    | start _ | absorb _ _ | final | rddig | reset => cases hfree
  · exact ⟨_, exec_rddig_accepted hp, exec_rddig_accepted hp⟩

/-! FAULT phase and its way out. -/

/-- R122: in FAULT phase a word other than RESET answers and writes no state. -/
theorem runWord_answers_in_fault {w : CommandWord} {s : State} (hs : s.phase = .fault)
    (hreset : decode w ≠ .ok .reset) :
    ∃ r, runWord w s = .next { s with outbox := s.outbox ++ [r] } := by
  cases hd : decode w with
  | error e => exact ⟨_, runWord_illegal_in_fault hs hd⟩
  | ok i =>
    rw [runWord_ok hd]
    have hi : i ≠ .reset := fun h => hreset (h ▸ hd)
    cases hfree : i.isFree with
    | false => exact ⟨_, exec_refused_in_fault hs hi hfree⟩
    | true => exact exec_free hfree s

/-- Settles O33. -/
theorem faultLeftOnlyByReset : Obligations.FaultLeftOnlyByReset := by
  intro s t hready hs hstep
  rcases step_cases s with ⟨-, h⟩ | ⟨_, _, -, hwait, -⟩ | ⟨w, rest, hin, -, h⟩ | ⟨rest, hin, h⟩ |
    ⟨rest, hin, h⟩
  · cases h.symm.trans hstep
    exact .inr (.inr ⟨hs, rfl, rfl, rfl, rfl⟩)
  · cases hready.symm.trans hwait
  · have hrun := h.symm.trans hstep
    by_cases hreset : decode w = .ok .reset
    · cases (runWord_ok hreset).symm.trans hrun
      exact .inl ⟨.inl ⟨w, rest, hin, hreset⟩, rfl, rfl⟩
    · obtain ⟨r, hr⟩ := runWord_answers_in_fault (s := { s with inbox := rest }) hs hreset
      cases hr.symm.trans hrun
      exact .inr (.inr ⟨hs, rfl, rfl, rfl, rfl⟩)
  · cases h.symm.trans hstep
    exact .inl ⟨.inr ⟨rest, hin⟩, rfl, rfl⟩
  · cases h.symm.trans hstep
    exact .inr (.inl ⟨⟨rest, hin⟩, rfl⟩)

/-! DIGEST responses. -/

/-- The answer of a word, and R136: when it is a DIGEST. -/
theorem exists_answer (w : CommandWord) (s : State) :
    ∃ t k d, runWord w s = .next t ∧ t.outbox = s.outbox ++ [responseWord k d] ∧
      (k = .digest → t.phase = .done ∧ s.phase ≠ .fault ∧ d = digestData t.regs ∧
        (decode w = .ok .final ∨ decode w = .ok .rddig)) := by
  cases hd : decode w with
  | error e =>
    rw [runWord_error hd]
    rcases illegalCommand_cases s with ⟨-, h⟩ | ⟨-, h⟩
    · exact ⟨_, .fault, _, congrArg _ h, rfl, nofun⟩
    · exact ⟨_, .fault, _, congrArg _ h, rfl, nofun⟩
  | ok i =>
    rw [runWord_ok hd]
    rcases exec_cases i s with ⟨-, h⟩ | ⟨-, c, -, h⟩ | ⟨_, -, -, -, h⟩ | ⟨_, _, -, -, -, h⟩ |
      ⟨rfl, hp, -, h⟩ | ⟨rfl, hp, h⟩ | ⟨-, h⟩ | ⟨_, _, -, h⟩ | ⟨-, h⟩
    · exact ⟨_, .fault, _, h, rfl, nofun⟩
    · exact ⟨_, .fault, _, h, rfl, nofun⟩
    · exact ⟨_, .ack, _, h, rfl, nofun⟩
    · exact ⟨_, .ack, _, h, rfl, nofun⟩
    · exact ⟨_, .digest, _, h, rfl, fun _ => ⟨rfl, by simp [hp], rfl, .inl rfl⟩⟩
    · exact ⟨_, .digest, _, h, rfl, fun _ => ⟨hp, by simp [hp], rfl, .inr rfl⟩⟩
    · exact ⟨_, .status, _, h, rfl, nofun⟩
    · exact ⟨_, .rot, _, h, rfl, nofun⟩
    · exact ⟨_, .ack, _, h, rfl, nofun⟩

/-- Settles O35. -/
theorem digestOnlyInDone : Obligations.DigestOnlyInDone := by
  intro w s t r hrun hout hkind
  obtain ⟨u, k, d, hu, houtbox, hdigest⟩ := exists_answer w s
  cases hu.symm.trans hrun
  obtain rfl : responseWord k d = r := by simpa [houtbox] using hout
  rw [responseKind_responseWord] at hkind
  rw [responseData_responseWord]
  exact hdigest (ResponseKind.code_injective (b := .digest) hkind)

/-! The phase machine. -/

/-- R123: `t` has the phase and cause the entry gives for the command `i` run in `s`. -/
def EntryHolds (e : PhaseEntry) (i : Instr) (s t : State) : Prop :=
  match e with
  | .accepted p => t.phase = p ∧ t.cause = if i = .reset then 0 else s.cause
  | .faults c => t.phase = .fault ∧ t.cause = c.code
  | .refused => t.phase = .fault ∧ t.cause = s.cause

theorem start_entryHolds (len : Word) (s : State) : ∃ t, exec (.start len) s = .next t ∧
    EntryHolds (phaseTable s.phase (decide (s.cnt ≠ 0)) (.start len)) (.start len) s t := by
  obtain ⟨haccepted, hunaligned, hsequence, hrefused⟩ := startBehaviour len s
  cases hp : s.phase with
  | idle | done =>
    by_cases h8 : len.toNat % 8 = 0
    · exact ⟨_, haccepted (by simp [hp]) h8, by simp [phaseTable, EntryHolds, h8]⟩
    · exact ⟨_, hunaligned (by simp [hp]) h8, by simp [phaseTable, EntryHolds, h8, FaultCause.code]⟩
  | absorbing => exact ⟨_, hsequence hp, rfl, rfl⟩
  | fault => exact ⟨_, hrefused hp, hp, rfl⟩

theorem absorb_entryHolds (v0 v1 : Word) (s : State) : ∃ t, exec (.absorb v0 v1) s = .next t ∧
    EntryHolds (phaseTable s.phase (decide (s.cnt ≠ 0)) (.absorb v0 v1)) (.absorb v0 v1) s t := by
  obtain ⟨haccepted, hsequence, hrefused⟩ := absorbBehaviour v0 v1 s
  cases hp : s.phase with
  | idle | done => exact ⟨_, hsequence (by simp [hp]), rfl, rfl⟩
  | absorbing =>
    by_cases hc : s.cnt = 0#29
    · exact ⟨_, hsequence (by simp [hp, hc]), by simp [phaseTable, EntryHolds, hc, FaultCause.code]⟩
    · exact ⟨_, haccepted hp hc, by simp [phaseTable, EntryHolds, hc, hp]⟩
  | fault => exact ⟨_, hrefused hp, hp, rfl⟩

theorem final_entryHolds (s : State) : ∃ t, exec .final s = .next t ∧
    EntryHolds (phaseTable s.phase (decide (s.cnt ≠ 0)) .final) .final s t := by
  obtain ⟨haccepted, hsequence, hrefused⟩ := finalBehaviour s
  cases hp : s.phase with
  | idle | done => exact ⟨_, hsequence (by simp [hp]), rfl, rfl⟩
  | absorbing =>
    by_cases hc : s.cnt = 0#29
    · exact ⟨_, haccepted hp hc, by simp [phaseTable, EntryHolds, hc]⟩
    · exact ⟨_, hsequence (by simp [hp, hc]), by simp [phaseTable, EntryHolds, hc, FaultCause.code]⟩
  | fault => exact ⟨_, hrefused hp, hp, rfl⟩

theorem rddig_entryHolds (s : State) : ∃ t, exec .rddig s = .next t ∧
    EntryHolds (phaseTable s.phase (decide (s.cnt ≠ 0)) .rddig) .rddig s t := by
  obtain ⟨haccepted, hsequence, hrefused⟩ := rddigBehaviour s
  cases hp : s.phase with
  | idle | absorbing => exact ⟨_, hsequence (by simp [hp]), rfl, rfl⟩
  | done => exact ⟨_, haccepted hp, hp, rfl⟩
  | fault => exact ⟨_, hrefused hp, hp, rfl⟩

theorem exec_entryHolds (i : Instr) (s : State) : ∃ t, exec i s = .next t ∧
    EntryHolds (phaseTable s.phase (decide (s.cnt ≠ 0)) i) i s t := by
  cases i with
  | start len => exact start_entryHolds len s
  | absorb v0 v1 => exact absorb_entryHolds v0 v1 s
  | final => exact final_entryHolds s
  | rddig => exact rddig_entryHolds s
  | rdstat | rotl _ _ | reset => exact ⟨_, rfl, rfl, rfl⟩

/-- Settles O34. -/
theorem phaseMachine : Obligations.PhaseMachine := by
  refine ⟨exec_entryHolds, fun w e s hd => ?illegal⟩
  case illegal =>
    by_cases hs : s.phase = .fault
    · exact ⟨_, runWord_illegal_in_fault hs hd, hs, (if_pos hs).symm⟩
    · exact ⟨_, (runWord_error hd).trans (congrArg _ (illegalCommand_outside_fault hs)), rfl,
        (if_neg hs).symm⟩

/-! The write columns of the access table. -/

/-- Settles O47: each of the states a command can lead to names the registers it writes. -/
theorem accessTableWrites : Obligations.AccessTableWrites := by
  intro i s
  rcases exec_cases i s with ⟨-, h⟩ | ⟨-, c, -, h⟩ | ⟨len, rfl, -, -, h⟩ |
    ⟨v0, v1, rfl, hp, -, h⟩ | ⟨rfl, -, -, h⟩ | ⟨rfl, -, h⟩ | ⟨rfl, h⟩ | ⟨_, _, rfl, h⟩ | ⟨rfl, h⟩
  · exact ⟨_, h, by simp⟩
  · exact ⟨_, h, by simp⟩
  · exact ⟨_, h, by simp⟩
  · exact ⟨_, h, by simp [hp]⟩
  · exact ⟨_, h, by simp⟩
  · exact ⟨_, h, by simp⟩
  · exact ⟨_, h, by simp⟩
  · exact ⟨_, h, by simp⟩
  · exact ⟨_, h, by simp⟩

/-! Steps without a command. -/

theorem step_waiting {s : State} (hin : s.inbox = []) : step s = .next s := by
  simp [step, stepEvent, nextEvent_nil hin]

theorem step_resetInput {s : State} {rest : List HostEvent} (hin : s.inbox = .resetInput :: rest) :
    step s = .next (assertResetInput { s with inbox := rest }) := by
  simp [step, stepEvent, nextEvent_cons hin, runEvent]

theorem step_powerOn {s : State} {rest : List HostEvent} (hin : s.inbox = .powerOn :: rest) :
    step s = .next (applyPower { s with inbox := rest }) := by
  simp [step, stepEvent, nextEvent_cons hin, runEvent]

theorem step_command_before_reset {s : State} {w : CommandWord} {rest : List HostEvent}
    (hwait : s.awaitingReset = true) (hin : s.inbox = .command w :: rest) :
    step s = .fault .commandBeforeReset := by
  simp [step, stepEvent, nextEvent_cons hin, runEvent, hwait]

/-- Settles O40. -/
theorem resetInputBehaviour : Obligations.ResetInputBehaviour :=
  ⟨fun s _ hin => ⟨freeQuad s.fresh, s.fresh + 4, step_resetInput hin, rfl⟩,
    fun _ _ _ hwait hin => step_command_before_reset hwait hin⟩

/-- Settles O41. -/
theorem waitingAndPowerUp : Obligations.WaitingAndPowerUp :=
  ⟨fun _ hin => step_waiting hin, fun _ _ hin => ⟨_, step_powerOn hin, rfl, rfl, rfl, rfl⟩⟩

end Sys2Proof.Machine
end

section
/-!
PROOF. What a command does not depend on: the read columns of 10_state.md R36, an `S` that is not in
use (R34, R35 item 6), and events sent behind the one a step consumes (20_memory.md R50). The idea:
two runs of one command take the same branch when the two states agree on the phase and on the
command's fault, so a relation between the two next states need only be shown branch by branch.
-/
namespace Sys2Proof.Machine

/-! Two runs of one command. -/

/-- The state an accepted command leads to (R95, R101 to R104, R120, R121). -/
def acceptedState (i : Instr) (s : State) : State :=
  match i with
  | .start len => respond .ack 0
      { s with regs := foldLength s.iv len, len := len, cnt := blockCount len, phase := .absorbing }
  | .absorb v0 v1 => respond .ack 0 { s with regs := mixRound s.regs v0 v1, cnt := s.cnt - 1 }
  | .final => respond .digest (digestData (finalize s.regs s.len))
      { s with regs := finalize s.regs s.len, phase := .done }
  | .rddig => respond .digest (digestData s.regs) s
  | .rdstat => respond .status (statusView s) s
  | .rotl value n => respond .rot ((rotl32 value n).setWidth 128) s
  | .reset => respond .ack 0 (enterReset s)

/-- R122: the commands that run in FAULT phase too. -/
def RunsInFault (i : Instr) : Prop := i = .reset ∨ i.isFree = true

/-- The command takes no fault and is not refused. -/
def Accepted (i : Instr) (s : State) : Prop :=
  commandFault i s = none ∧ (s.phase = .fault → RunsInFault i)

theorem commandFault_of_runsInFault {i : Instr} (hi : RunsInFault i) (s : State) :
    commandFault i s = none := by
  cases i with
  | rdstat | rotl _ _ | reset => rfl
  | start _ | absorb _ _ | final | rddig => simp [RunsInFault, Instr.isFree] at hi

theorem exec_of_accepted {i : Instr} {s : State} (h : Accepted i s) :
    exec i s = .next (acceptedState i s) := by
  obtain ⟨hf, hruns⟩ := h
  cases i with
  | rdstat | rotl _ _ | reset => rfl
  | start _ | absorb _ _ | final | rddig =>
    have hs : s.phase ≠ .fault := fun hs => by simpa [RunsInFault, Instr.isFree] using hruns hs
    exact next_guarded_accepts hs hf

theorem exec_refuses {i : Instr} {s : State} (hs : s.phase = .fault) (hi : ¬RunsInFault i) :
    exec i s = .next (refuseLatched s) :=
  exec_refused_in_fault hs (fun h => hi (.inl h))
    (Bool.eq_false_iff.2 fun h => hi (.inr h))

/-- The three branches of a command, and what decides between them. -/
theorem exec_branches (i : Instr) (s : State) :
    (s.phase = .fault ∧ ¬RunsInFault i ∧ exec i s = .next (refuseLatched s)) ∨
    (s.phase ≠ .fault ∧ ∃ c, commandFault i s = some c ∧ exec i s = .next (raiseFault c s)) ∨
    (Accepted i s ∧ exec i s = .next (acceptedState i s)) := by
  by_cases hs : s.phase = .fault
  · by_cases hi : RunsInFault i
    · have haccepted : Accepted i s := ⟨commandFault_of_runsInFault hi s, fun _ => hi⟩
      exact .inr (.inr ⟨haccepted, exec_of_accepted haccepted⟩)
    · exact .inl ⟨hs, hi, exec_refuses hs hi⟩
  · cases hf : commandFault i s with
    | some c => exact .inr (.inl ⟨hs, c, rfl, exec_takes_commandFault hs hf⟩)
    | none =>
      have haccepted : Accepted i s := ⟨hf, fun h => absurd h hs⟩
      exact .inr (.inr ⟨haccepted, exec_of_accepted haccepted⟩)

section
variable {P : State → State → Prop} {s t : State} (s' : State)

/-- Two runs of one command from states with one phase and one fault are related by `P` when each of
the three branches is. -/
theorem exec_related {i : Instr} (hexec : exec i s = .next t) (hphase : s'.phase = s.phase)
    (hfault : commandFault i s' = commandFault i s)
    (hrefused : s.phase = .fault → P (refuseLatched s) (refuseLatched s'))
    (hraised : ∀ c, P (raiseFault c s) (raiseFault c s'))
    (haccepted : Accepted i s → P (acceptedState i s) (acceptedState i s')) :
    ∃ t', exec i s' = .next t' ∧ P t t' := by
  rcases exec_branches i s with ⟨hs, hi, h⟩ | ⟨hs, c, hf, h⟩ | ⟨ha, h⟩
  all_goals cases h.symm.trans hexec
  · exact ⟨_, exec_refuses (hphase.trans hs) hi, hrefused hs⟩
  · exact ⟨_, exec_takes_commandFault (by rwa [hphase]) (hfault.trans hf), hraised c⟩
  · have ha' : Accepted i s' := by rwa [Accepted, hphase, hfault]
    exact ⟨_, exec_of_accepted ha', haccepted ha⟩

/-- The same for a word, legal or not. -/
theorem runWord_related {w : CommandWord} (hrun : runWord w s = .next t)
    (hphase : s'.phase = s.phase)
    (hfault : ∀ i, commandFault i s' = commandFault i s)
    (hrefused : s.phase = .fault → P (refuseLatched s) (refuseLatched s'))
    (hraised : ∀ c, P (raiseFault c s) (raiseFault c s'))
    (haccepted : ∀ i, Accepted i s → P (acceptedState i s) (acceptedState i s')) :
    ∃ t', runWord w s' = .next t' ∧ P t t' := by
  cases hd : decode w with
  | ok i =>
    rw [runWord_ok hd] at hrun ⊢
    exact exec_related s' hrun hphase (hfault i) hrefused hraised (haccepted i)
  | error e =>
    rw [runWord_error hd] at hrun ⊢
    cases hrun
    by_cases hs : s.phase = .fault
    · rw [illegalCommand, illegalCommand, guarded_in_fault hs, guarded_in_fault (hphase.trans hs)]
      exact ⟨_, rfl, hrefused hs⟩
    · rw [illegalCommand, illegalCommand, guarded_faults hs, guarded_faults (by rwa [hphase])]
      exact ⟨_, rfl, hraised _⟩

end

/-! The read columns of the access table. -/

section
variable {i : Instr} {s t : State}

theorem exec_reads_no_iv (hstart : ∀ len, i ≠ .start len) (hexec : exec i s = .next t) (iv : Quad) :
    exec i { s with iv := iv } = .next { t with iv := iv } := by
  have hfault : commandFault i { s with iv := iv } = commandFault i s := by cases i <;> rfl
  have haccepted : acceptedState i { s with iv := iv } = { acceptedState i s with iv := iv } := by
    cases i with
    | start len => exact absurd rfl (hstart len)
    | absorb _ _ | final | rddig | rdstat | rotl _ _ | reset => rfl
  obtain ⟨t', h, rfl⟩ := exec_related (P := fun t t' => t' = { t with iv := iv })
    { s with iv := iv } hexec rfl hfault
    (fun _ => rfl) (fun _ => rfl) (fun _ => haccepted)
  exact h

theorem exec_reads_no_regs (habsorb : ∀ v0 v1, i ≠ .absorb v0 v1) (hfinal : i ≠ .final)
    (hrddig : i ≠ .rddig) (hexec : exec i s = .next t) (q : Quad) :
    ∃ q', exec i { s with regs := q } = .next { t with regs := q' } := by
  have hfault : commandFault i { s with regs := q } = commandFault i s := by cases i <;> rfl
  have haccepted : ∃ q', acceptedState i { s with regs := q } =
      { acceptedState i s with regs := q' } := by
    cases i with
    | absorb v0 v1 => exact absurd rfl (habsorb v0 v1)
    | final => exact absurd rfl hfinal
    | rddig => exact absurd rfl hrddig
    | start _ | rdstat | rotl _ _ | reset => exact ⟨_, rfl⟩
  obtain ⟨t', h, q', rfl⟩ := exec_related (P := fun t t' => ∃ q', t' = { t with regs := q' })
    { s with regs := q } hexec rfl hfault
    (fun _ => ⟨q, rfl⟩) (fun _ => ⟨q, rfl⟩) (fun _ => haccepted)
  exact ⟨q', h⟩

theorem exec_reads_no_len (hfinal : i ≠ .final) (hrdstat : i ≠ .rdstat) (hexec : exec i s = .next t)
    (len : Word) : ∃ len', exec i { s with len := len } = .next { t with len := len' } := by
  have hfault : commandFault i { s with len := len } = commandFault i s := by cases i <;> rfl
  have haccepted : ∃ len', acceptedState i { s with len := len } =
      { acceptedState i s with len := len' } := by
    cases i with
    | final => exact absurd rfl hfinal
    | rdstat => exact absurd rfl hrdstat
    | start _ | absorb _ _ | rddig | rotl _ _ | reset => exact ⟨_, rfl⟩
  obtain ⟨t', h, len', rfl⟩ := exec_related (P := fun t t' => ∃ len', t' = { t with len := len' })
    { s with len := len } hexec rfl hfault
    (fun _ => ⟨len, rfl⟩) (fun _ => ⟨len, rfl⟩) (fun _ => haccepted)
  exact ⟨len', h⟩

theorem exec_reads_no_cnt (habsorb : ∀ v0 v1, i ≠ .absorb v0 v1) (hfinal : i ≠ .final)
    (hrdstat : i ≠ .rdstat) (hexec : exec i s = .next t) (cnt : BlockCount) :
    ∃ cnt', exec i { s with cnt := cnt } = .next { t with cnt := cnt' } := by
  have hfault : commandFault i { s with cnt := cnt } = commandFault i s := by
    cases i with
    | absorb v0 v1 => exact absurd rfl (habsorb v0 v1)
    | final => exact absurd rfl hfinal
    | start _ | rddig | rdstat | rotl _ _ | reset => rfl
  have haccepted : ∃ cnt', acceptedState i { s with cnt := cnt } =
      { acceptedState i s with cnt := cnt' } := by
    cases i with
    | absorb v0 v1 => exact absurd rfl (habsorb v0 v1)
    | final => exact absurd rfl hfinal
    | rdstat => exact absurd rfl hrdstat
    | start _ | rddig | rotl _ _ | reset => exact ⟨_, rfl⟩
  obtain ⟨t', h, cnt', rfl⟩ := exec_related (P := fun t t' => ∃ cnt', t' = { t with cnt := cnt' })
    { s with cnt := cnt } hexec rfl hfault
    (fun _ => ⟨cnt, rfl⟩) (fun _ => ⟨cnt, rfl⟩) (fun _ => haccepted)
  exact ⟨cnt', h⟩

/-- Outside FAULT phase only: a refused command answers `CAUSE`. -/
theorem exec_reads_no_cause (hs : s.phase ≠ .fault) (hrdstat : i ≠ .rdstat)
    (hexec : exec i s = .next t) (cause : BitVec 4) :
    ∃ cause', exec i { s with cause := cause } = .next { t with cause := cause' } := by
  have hfault : commandFault i { s with cause := cause } = commandFault i s := by cases i <;> rfl
  have haccepted : ∃ cause', acceptedState i { s with cause := cause } =
      { acceptedState i s with cause := cause' } := by
    cases i with
    | rdstat => exact absurd rfl hrdstat
    | start _ | absorb _ _ | final | rddig | rotl _ _ | reset => exact ⟨_, rfl⟩
  obtain ⟨t', h, cause', rfl⟩ := exec_related
    (P := fun t t' => ∃ cause', t' = { t with cause := cause' })
    { s with cause := cause } hexec rfl hfault
    (fun h => absurd h hs) (fun c => ⟨c.code, rfl⟩) (fun _ => haccepted)
  exact ⟨cause', h⟩

theorem exec_reads_no_phase (hi : i = .reset ∨ ∃ value n, i = .rotl value n)
    (hexec : exec i s = .next t) (p : Phase) :
    ∃ p', exec i { s with phase := p } = .next { t with phase := p' } := by
  rcases hi with rfl | ⟨value, n, rfl⟩
  · cases hexec
    exact ⟨_, rfl⟩
  · cases hexec
    exact ⟨_, rfl⟩

end

/-- Settles O48; only the column of `CAUSE` needs a phase other than FAULT. -/
theorem accessTableReads : Obligations.AccessTableReads :=
  fun _ _ _ hexec =>
    ⟨fun _ hstart => exec_reads_no_iv hstart hexec,
      fun _ habsorb hfinal hrddig => exec_reads_no_regs habsorb hfinal hrddig hexec,
      fun _ hfinal hrdstat => exec_reads_no_len hfinal hrdstat hexec,
      fun _ habsorb hfinal hrdstat => exec_reads_no_cnt habsorb hfinal hrdstat hexec,
      fun hs hrdstat => exec_reads_no_cause hs hrdstat hexec,
      fun hi => exec_reads_no_phase hi hexec⟩

/-! An `S` that is not in use. -/

theorem agreeUpToHiddenS_refl (s : State) : AgreeUpToHiddenS s s :=
  ⟨rfl, fun _ => rfl⟩

/-- R102 to R104: a command that reads `S` is accepted only while `S` is in use. -/
theorem phase_of_accepted_reading_regs {i : Instr} {s : State} (h : Accepted i s)
    (hreads : (∃ v0 v1, i = .absorb v0 v1) ∨ i = .final ∨ i = .rddig) :
    s.phase = .absorbing ∨ s.phase = .done := by
  obtain ⟨hf, -⟩ := h
  rcases hreads with ⟨v0, v1, rfl⟩ | rfl | rfl
  · rcases absorbFault_cases s with ⟨-, h⟩ | ⟨⟨hp, -⟩, -⟩
    · cases h.symm.trans hf
    · exact .inl hp
  · rcases finalFault_cases s with ⟨-, h⟩ | ⟨⟨hp, -⟩, -⟩
    · cases h.symm.trans hf
    · exact .inl hp
  · rcases rddigFault_cases s with ⟨-, h⟩ | ⟨hp, -⟩
    · cases h.symm.trans hf
    · exact .inr hp

section
variable {s : State} {q : Quad}

/-- R36: START and RESET write `S` without reading it, RDSTAT and ROTL do neither, and the others
run only while it is in use. -/
theorem acceptedState_agrees (hready : s.awaitingReset = false) (hq : SInUse s → q = s.regs)
    {i : Instr} (h : Accepted i s) :
    AgreeUpToHiddenS (acceptedState i s) (acceptedState i { s with regs := q }) := by
  have hread := fun hreads => hq ⟨hready, phase_of_accepted_reading_regs h hreads⟩
  cases i with
  | start _ | reset => exact agreeUpToHiddenS_refl _
  | rdstat | rotl _ _ => exact ⟨rfl, hq⟩
  | absorb v0 v1 =>
    rw [hread (.inl ⟨v0, v1, rfl⟩)]
    exact agreeUpToHiddenS_refl _
  | final =>
    rw [hread (.inr (.inl rfl))]
    exact agreeUpToHiddenS_refl _
  | rddig =>
    rw [hread (.inr (.inr rfl))]
    exact agreeUpToHiddenS_refl _

/-- In FAULT phase `S` is not in use. -/
theorem not_sInUse_of_fault (hs : s.phase = .fault) : ¬SInUse s := by
  simp [SInUse, hs]

theorem runWord_agrees {w : CommandWord} {t : State} (hready : s.awaitingReset = false)
    (hq : SInUse s → q = s.regs) (hrun : runWord w s = .next t) :
    ∃ t', runWord w { s with regs := q } = .next t' ∧ AgreeUpToHiddenS t t' :=
  runWord_related { s with regs := q } hrun rfl (fun i => by cases i <;> rfl)
    (fun hs => ⟨rfl, fun hused => absurd hused (not_sInUse_of_fault (s := refuseLatched s) hs)⟩)
    (fun c => ⟨rfl, fun hused => absurd hused (not_sInUse_of_fault (raiseFault_phase c s))⟩)
    (fun _ => acceptedState_agrees hready hq)

/-- R34, R35 item 6: a step is matched by the step of a block with another hidden `S`. -/
theorem step_agrees {t : State} (hq : SInUse s → q = s.regs) (hstep : step s = .next t) :
    ∃ t', step { s with regs := q } = .next t' ∧ AgreeUpToHiddenS t t' := by
  rcases step_cases s with ⟨hin, h⟩ | ⟨_, _, -, -, h⟩ | ⟨w, rest, hin, hready, h⟩ | ⟨rest, hin, h⟩ |
    ⟨rest, hin, h⟩
  · cases h.symm.trans hstep
    exact ⟨_, step_waiting hin, rfl, hq⟩
  · cases h.symm.trans hstep
  · obtain ⟨t', hrun, hagree⟩ :=
      runWord_agrees (s := { s with inbox := rest }) hready hq (h.symm.trans hstep)
    exact ⟨t', (step_eq_runWord (s := { s with regs := q }) hready hin).trans hrun, hagree⟩
  · cases h.symm.trans hstep
    exact ⟨_, step_resetInput hin, agreeUpToHiddenS_refl _⟩
  · cases h.symm.trans hstep
    exact ⟨_, step_powerOn hin, agreeUpToHiddenS_refl _⟩

end

/-- The model's one stop: a command word before the reset input. -/
theorem step_eq_fault_iff {s : State} {f : Fault} :
    step s = .fault f ↔ s.awaitingReset = true ∧ ∃ w rest, s.inbox = .command w :: rest := by
  constructor
  · intro hstep
    rcases step_cases s with ⟨-, h⟩ | ⟨w, rest, hin, hwait, -⟩ | ⟨w, rest, -, -, h⟩ | ⟨_, -, h⟩ |
      ⟨_, -, h⟩
    · cases h.symm.trans hstep
    · exact ⟨hwait, w, rest, hin⟩
    · obtain ⟨_, _, hrun, -⟩ := runWord_next w { s with inbox := rest }
      cases (h.trans hrun).symm.trans hstep
    · cases h.symm.trans hstep
    · cases h.symm.trans hstep
  · rintro ⟨hwait, w, rest, hin⟩
    cases f
    exact step_command_before_reset hwait hin

/-- Settles O46. -/
theorem hiddenSNeverObservable : Obligations.HiddenSNeverObservable := by
  rintro s t ⟨ht, hused⟩
  rw [ht]
  refine ⟨fun s' hstep => ?next, fun f hstep => ?stop⟩
  case next =>
    obtain ⟨t', hstep', hagree⟩ := step_agrees hused hstep
    have houtbox := congrArg State.outbox hagree.1
    exact ⟨t', hstep', hagree, houtbox⟩
  case stop => exact step_eq_fault_iff.2 ((step_eq_fault_iff (s := s)).1 hstep)

/-! Late sends. -/

/-- No branch of a command reads the inbox. -/
theorem runWord_hostSend {w : CommandWord} {s t : State} (e : HostEvent)
    (hrun : runWord w s = .next t) : runWord w (hostSend e s) = .next (hostSend e t) := by
  obtain ⟨t', h, rfl⟩ := runWord_related (P := fun t t' => t' = hostSend e t)
    (hostSend e s) hrun rfl (fun i => by cases i <;> rfl) (fun _ => rfl) (fun _ => rfl)
    (fun i _ => by cases i <;> rfl)
  exact h

theorem hostSend_inbox_cons {s : State} {e e' : HostEvent} {rest : List HostEvent}
    (hin : s.inbox = e :: rest) : (hostSend e' s).inbox = e :: (rest ++ [e']) := by
  rw [hostSend_inbox, hin, List.cons_append]

/-- R163: a step consumes the oldest event, whatever stands behind it. -/
theorem step_hostSend {s t : State} (e : HostEvent) (hsent : s.inbox ≠ [])
    (hstep : step s = .next t) : step (hostSend e s) = .next (hostSend e t) := by
  rcases step_cases s with ⟨hin, -⟩ | ⟨_, _, -, -, h⟩ | ⟨w, rest, hin, hready, h⟩ | ⟨rest, hin, h⟩ |
    ⟨rest, hin, h⟩
  · exact absurd hin hsent
  · cases h.symm.trans hstep
  · have hrun := runWord_hostSend e (h.symm.trans hstep)
    exact (step_eq_runWord (s := hostSend e s) hready (hostSend_inbox_cons hin)).trans hrun
  · cases h.symm.trans hstep
    exact step_resetInput (hostSend_inbox_cons hin)
  · cases h.symm.trans hstep
    exact step_powerOn (hostSend_inbox_cons hin)

/-- Settles O42. -/
theorem lateSendsDoNotDisturbAStep : Obligations.LateSendsDoNotDisturbAStep := by
  refine fun s e hsent => ⟨fun t => step_hostSend e hsent, fun f hstep => ?stop⟩
  case stop =>
    obtain ⟨hwait, w, rest, hin⟩ := step_eq_fault_iff.1 hstep
    exact step_eq_fault_iff.2 ⟨hwait, w, _, hostSend_inbox_cons hin⟩

end Sys2Proof.Machine
end

section
/-!
PROOF. 41_mixer.md R100, R105, R106 and 70_reset_and_hazards.md R153, R158, R160: the commands of a
MIX compute `Mix`. The idea: an invariant that says which commands of `MIX M` are still to come and
that `Mix` of the bytes still to come, from the words now in `S`, is the output (`MixRemaining`).
Each of the commands keeps it, RDSTAT and ROTL do not touch it, and when no command is left the
digest was answered. A run with another number of blocks is refused at its first block too many or
at FINAL.
-/
namespace Sys2Proof.Machine

/-! `Mix` over the words of `S`. -/

/-- Steps 3 to 7 of R100 from the words `q`, over the bytes still to come. -/
def mixFrom (len : Word) (tail : List Byte) (q : Quad) : List Byte :=
  mixBlocks len tail q.w0 q.w1 q.w2 q.w3

/-- R102: a round of the block is a step of `Mix`. -/
theorem mixFrom_block (len : Word) (b0 b1 b2 b3 b4 b5 b6 b7 : Byte) (rest : List Byte) (q : Quad) :
    mixFrom len (b0 :: b1 :: b2 :: b3 :: b4 :: b5 :: b6 :: b7 :: rest) q =
      mixFrom len rest (mixRound q (leWord32 b0 b1 b2 b3) (leWord32 b4 b5 b6 b7)) :=
  rfl

/-- R103: the digest of FINAL is the output of `Mix`. -/
theorem mixFrom_nil (len : Word) (q : Quad) :
    mixFrom len [] q = digestBytes (digestData (finalize q len)) := by
  rw [digestBytes_digestData]
  rfl

/-- R101: START folds the length in as `Mix` does. -/
theorem mix_eq_some (iv : Quad) {msg : List Byte} (h8 : msg.length % 8 = 0)
    (hlt : msg.length < 2 ^ 32) :
    mix iv msg = some (mixFrom (BitVec.ofNat 32 msg.length) msg
      (foldLength iv (BitVec.ofNat 32 msg.length))) :=
  if_pos ⟨h8, hlt⟩

theorem length_mixBlocks (len : Word) (msg : List Byte) (s0 s1 s2 s3 : Word) :
    (mixBlocks len msg s0 s1 s2 s3).length = 16 := by
  induction msg, s0, s1, s2, s3 using mixBlocks.induct with
  | case1 b0 b1 b2 b3 b4 b5 b6 b7 rest s0 s1 s2 s3 v0 v1 n0 n1 n2 n3 ih => exact ih
  | case2 msg s0 s1 s2 s3 h => simp [mixBlocks, mixFinish]

/-- Settles O49. -/
theorem mixGivesSixteenBytes : Obligations.MixGivesSixteenBytes := by
  intro iv msg
  by_cases h : msg.length % 8 = 0 ∧ msg.length < 2 ^ 32
  · obtain ⟨h8, hlt⟩ := h
    rw [mix_eq_some iv h8 hlt]
    refine ⟨iff_of_true rfl ⟨h8, hlt⟩, ?_⟩
    rintro _ ⟨⟩
    exact length_mixBlocks _ _ _ _ _ _
  · rw [mix, if_neg h]
    exact ⟨iff_of_false Bool.false_ne_true h, nofun⟩

/-! What is left of a MIX. -/

/-- A message is in progress whose bytes `tail` are still to come. -/
def BlocksOwed (iv : Quad) (msg tail : List Byte) (s : State) : Prop :=
  s.phase = .absorbing ∧ s.len = BitVec.ofNat 32 msg.length ∧ tail.length % 8 = 0 ∧
    s.cnt.toNat = tail.length / 8 ∧ mix iv msg = some (mixFrom s.len tail s.regs)

/-- The message has been digested. -/
def Digested (msg : List Byte) (s : State) : Prop :=
  s.phase = .done ∧ s.len = BitVec.ofNat 32 msg.length ∧ s.cnt = 0

/-- The commands `ops` of `MIX msg` are still to be run. -/
def MixRemaining (iv : Quad) (msg : List Byte) (ops : List Instr) (s : State) : Prop :=
  (ops = mixCommands msg ∧ (s.phase = .idle ∨ s.phase = .done) ∧ s.iv = iv) ∨
  (∃ tail, ops = blockCommands tail ++ [.final] ∧ BlocksOwed iv msg tail s) ∨
  (ops = [] ∧ Digested msg s)

/-- R105: the response of a command of a run of `MIX msg`. -/
def MixAnswer (iv : Quad) (msg : List Byte) (i : Instr) (r : ResponseWord) : Prop :=
  responseKind r ≠ 0xFF#8 ∧
  ((∃ len, i = .start len) ∨ (∃ v0 v1, i = .absorb v0 v1) → r = responseWord .ack 0) ∧
  (i = .final → responseKind r = 0x02#8 ∧ mix iv msg = some (digestBytes (responseData r)))

section
variable {iv : Quad} {msg tail : List Byte} {s t : State}

theorem mixAnswer_ack {i : Instr} (hi : i ≠ .final) : MixAnswer iv msg i (responseWord .ack 0) :=
  ⟨by simp [ResponseKind.code], fun _ => rfl, fun h => absurd h hi⟩

/-- R101: after START all blocks of the message are owed. -/
theorem exec_start_mix (h8 : msg.length % 8 = 0) (hlt : msg.length < 2 ^ 32)
    (hp : s.phase = .idle ∨ s.phase = .done) :
    ∃ t, exec (.start (BitVec.ofNat 32 msg.length)) s = .next t ∧ BlocksOwed s.iv msg msg t ∧
      t.cause = s.cause ∧ t.outbox = s.outbox ++ [responseWord .ack 0] := by
  have hlen : (BitVec.ofNat 32 msg.length).toNat = msg.length := by
    rw [BitVec.toNat_ofNat, Nat.mod_eq_of_lt hlt]
  have hcnt : msg.length / 8 % 2 ^ 29 = msg.length / 8 := by omega
  refine ⟨_, exec_start_accepted hp (by rwa [hlen]), ⟨rfl, rfl, h8, ?_, mix_eq_some s.iv h8 hlt⟩,
    rfl, rfl⟩
  rw [respond_cnt, hlen, BitVec.toNat_ofNat, hcnt]

/-- R102: taking one from the count does not overflow its field. -/
theorem toNat_ofNat_pred (c : BlockCount) :
    (BitVec.ofNat 29 (c.toNat - 1)).toNat = c.toNat - 1 := by
  rw [BitVec.toNat_ofNat, Nat.mod_eq_of_lt ((Nat.sub_le _ _).trans_lt c.isLt)]

/-- R102: an ABSORB of the next block leaves the blocks behind it owed. -/
theorem exec_absorb_mix {b0 b1 b2 b3 b4 b5 b6 b7 : Byte}
    (h : BlocksOwed iv msg (b0 :: b1 :: b2 :: b3 :: b4 :: b5 :: b6 :: b7 :: tail) s) :
    ∃ t, exec (absorbBytes b0 b1 b2 b3 b4 b5 b6 b7) s = .next t ∧ BlocksOwed iv msg tail t ∧
      t.cause = s.cause ∧ t.outbox = s.outbox ++ [responseWord .ack 0] := by
  obtain ⟨hp, hlen, h8, hcnt, hmix⟩ := h
  simp only [List.length_cons] at h8 hcnt
  rw [mixFrom_block] at hmix
  have hc : s.cnt ≠ 0 := by bv_omega
  refine ⟨_, exec_absorb_accepted _ _ hp hc, ⟨hp, hlen, by omega, ?_, hmix⟩, rfl, rfl⟩
  rw [respond_cnt, toNat_ofNat_pred]
  omega

/-- R103: with no byte left, FINAL answers the output of `Mix`. -/
theorem exec_final_mix (h : BlocksOwed iv msg [] s) :
    ∃ t d, exec .final s = .next t ∧ Digested msg t ∧ t.cause = s.cause ∧
      t.outbox = s.outbox ++ [responseWord .digest d] ∧ mix iv msg = some (digestBytes d) := by
  obtain ⟨hp, hlen, -, hcnt, hmix⟩ := h
  have hc : s.cnt = 0 := BitVec.eq_of_toNat_eq hcnt
  rw [mixFrom_nil] at hmix
  exact ⟨_, _, exec_final_accepted hp hc, ⟨rfl, hlen, hc⟩, rfl, rfl, hmix⟩

/-- Each command of the MIX is accepted and answered, and leaves the commands behind it. -/
theorem exec_mixRemaining {i : Instr} {ops : List Instr} (h8 : msg.length % 8 = 0)
    (hlt : msg.length < 2 ^ 32) (h : MixRemaining iv msg (i :: ops) s) :
    ∃ t r, exec i s = .next t ∧ MixRemaining iv msg ops t ∧ t.cause = s.cause ∧
      t.outbox = s.outbox ++ [r] ∧ MixAnswer iv msg i r := by
  rcases h with ⟨hops, hp, rfl⟩ | ⟨tail, hops, howed⟩ | ⟨hops, -⟩
  · obtain ⟨rfl, rfl⟩ := List.cons.inj hops
    obtain ⟨t, hexec, howed, hcause, hout⟩ := exec_start_mix h8 hlt hp
    exact ⟨t, _, hexec, .inr (.inl ⟨msg, rfl, howed⟩), hcause, hout, mixAnswer_ack nofun⟩
  · by_cases hlong : 8 ≤ tail.length
    · obtain ⟨b0, b1, b2, b3, b4, b5, b6, b7, rest, rfl⟩ := exists_eq_block_of_length hlong
      obtain ⟨rfl, rfl⟩ := List.cons.inj hops
      obtain ⟨t, hexec, howed', hcause, hout⟩ := exec_absorb_mix howed
      exact ⟨t, _, hexec, .inr (.inl ⟨rest, rfl, howed'⟩), hcause, hout, mixAnswer_ack nofun⟩
    · obtain ⟨-, -, htail8, -⟩ := id howed
      obtain rfl : tail = [] := List.length_eq_zero_iff.1 (by omega)
      obtain ⟨rfl, rfl⟩ := List.cons.inj hops
      obtain ⟨t, d, hexec, hdone, hcause, hout, hmix⟩ := exec_final_mix howed
      refine ⟨t, _, hexec, .inr (.inr ⟨rfl, hdone⟩), hcause, hout, ?_, by simp, fun _ => ?_⟩
      · simp [ResponseKind.code]
      · simpa [ResponseKind.code] using hmix
  · cases hops

/-- R158: RDSTAT and ROTL may stand anywhere. -/
theorem exec_free_mix {i : Instr} (hfree : i.isFree = true) (s : State) :
    ∃ r, exec i s = .next { s with outbox := s.outbox ++ [r] } ∧ MixAnswer iv msg i r := by
  cases i with
  | rdstat => exact ⟨_, rfl, by simp [ResponseKind.code], by simp, nofun⟩
  | rotl value n => exact ⟨_, exec_rotl value n s, by simp [ResponseKind.code], by simp, nofun⟩
  | start _ | absorb _ _ | final | rddig | reset => cases hfree

/-- One command of a run of a MIX with RDSTAT and ROTL in between. -/
theorem exec_interleaved {i : Instr} {cmds : List Instr} (h8 : msg.length % 8 = 0)
    (hlt : msg.length < 2 ^ 32)
    (h : MixRemaining iv msg ((i :: cmds).filter fun j => !j.isFree) s) :
    ∃ t r, exec i s = .next t ∧ MixRemaining iv msg (cmds.filter fun j => !j.isFree) t ∧
      t.cause = s.cause ∧ t.outbox = s.outbox ++ [r] ∧ MixAnswer iv msg i r := by
  cases hfree : i.isFree with
  | false =>
    rw [List.filter_cons_of_pos (by simp [hfree])] at h
    exact exec_mixRemaining h8 hlt h
  | true =>
    rw [List.filter_cons_of_neg (by simp [hfree])] at h
    obtain ⟨r, hexec, hanswer⟩ := exec_free_mix hfree s
    exact ⟨_, r, hexec, h, rfl, rfl, hanswer⟩

/-- The words of a list of commands, as the host sends them. -/
def sent (cmds : List Instr) : List HostEvent := cmds.map fun i => .command (encode i)

/-- One step of such a run. -/
theorem step_interleaved {i : Instr} {cmds : List Instr} {rest : List HostEvent}
    (h8 : msg.length % 8 = 0) (hlt : msg.length < 2 ^ 32) (hready : s.awaitingReset = false)
    (hin : s.inbox = sent (i :: cmds) ++ rest)
    (h : MixRemaining iv msg ((i :: cmds).filter fun j => !j.isFree) s) :
    ∃ t r, step s = .next t ∧ t.awaitingReset = false ∧ t.inbox = sent cmds ++ rest ∧
      MixRemaining iv msg (cmds.filter fun j => !j.isFree) t ∧
      t.cause = s.cause ∧ t.outbox = s.outbox ++ [r] ∧ MixAnswer iv msg i r := by
  have hstep := step_eq_runWord hready hin
  obtain ⟨t, r, hexec, hrem, hcause, hout, hanswer⟩ :=
    exec_interleaved (s := { s with inbox := sent cmds ++ rest }) h8 hlt h
  obtain ⟨u, -, hrun, -, hinbox, hwait, -⟩ :=
    runWord_next (encode i) { s with inbox := sent cmds ++ rest }
  rw [runWord_ok (decode_encode i), hexec] at hrun
  cases hrun
  exact ⟨t, r, (hstep.trans (runWord_ok (decode_encode i))).trans hexec, hwait.trans hready, hinbox,
    hrem, hcause, hout, hanswer⟩

end

/-- R105 and R158: a run of the commands of a MIX, with RDSTAT and ROTL in between. -/
theorem run_interleaved {iv : Quad} {msg : List Byte} {rest : List HostEvent}
    (h8 : msg.length % 8 = 0) (hlt : msg.length < 2 ^ 32) (cmds : List Instr) (s : State)
    (hready : s.awaitingReset = false) (hin : s.inbox = sent cmds ++ rest)
    (h : MixRemaining iv msg (cmds.filter fun j => !j.isFree) s) :
    ∃ t rs, Host.Core.run core cmds.length s = .next t ∧ MixRemaining iv msg [] t ∧
      t.cause = s.cause ∧ t.inbox = rest ∧ t.outbox = s.outbox ++ rs ∧
      List.Forall₂ (MixAnswer iv msg) cmds rs := by
  induction cmds generalizing s with
  | nil => exact ⟨s, [], run_zero s, h, rfl, hin, (List.append_nil _).symm, .nil⟩
  | cons i cmds ih =>
    obtain ⟨u, r, hstep, hready', hinbox, hrem, hcause, hout, hanswer⟩ :=
      step_interleaved h8 hlt hready hin h
    obtain ⟨t, rs, hrun, hend, hcause', hinbox', hout', hanswers⟩ := ih u hready' hinbox hrem
    refine ⟨t, r :: rs, (run_succ_of_step _ hstep).trans hrun, hend, hcause'.trans hcause, hinbox',
      ?_, .cons hanswer hanswers⟩
    rw [hout', hout, List.append_assoc, List.singleton_append]

/-- With no command left the message has been digested. -/
theorem digested_of_mixRemaining_nil {iv : Quad} {msg : List Byte} {t : State}
    (h : MixRemaining iv msg [] t) : Digested msg t := by
  rcases h with ⟨hops, -⟩ | ⟨tail, hops, -⟩ | ⟨-, hdone⟩
  · cases hops
  · simp at hops
  · exact hdone

theorem rel_of_forall₂_getElem? {α β : Type} {R : α → β → Prop} {as : List α} {bs : List β}
    (h : List.Forall₂ R as bs) {k : Nat} {a : α} {b : β} (ha : as[k]? = some a)
    (hb : bs[k]? = some b) : R a b := by
  obtain ⟨hka, rfl⟩ := List.getElem?_eq_some_iff.1 ha
  obtain ⟨hkb, rfl⟩ := List.getElem?_eq_some_iff.1 hb
  exact h.get hka hkb

/-- Settles O50. -/
theorem mixCommandsComputeMix : Obligations.MixCommandsComputeMix := by
  intro s msg cmds rest hready hp h8 hle hcmds hin
  have hlt : msg.length < 2 ^ 32 := by omega
  obtain ⟨t, rs, hrun, hend, hcause, hinbox, hout, hanswers⟩ :=
    run_interleaved h8 hlt cmds s hready hin (.inl ⟨hcmds, hp, rfl⟩)
  obtain ⟨hdone, hlen, hcnt⟩ := digested_of_mixRemaining_nil hend
  refine ⟨t, rs, hrun, hdone, ?_, hcnt, hcause, hinbox, hout, hanswers.length_eq.symm,
    fun k i r hi hr => rel_of_forall₂_getElem? hanswers hi hr⟩
  rw [hlen, BitVec.toNat_ofNat, Nat.mod_eq_of_lt hlt]

/-! Determinism. -/

theorem isFree_of_mem_blockCommands {msg : List Byte} {i : Instr} (hi : i ∈ blockCommands msg) :
    i.isFree = false := by
  induction msg using blockCommands.induct with
  | case1 b0 b1 b2 b3 b4 b5 b6 b7 rest ih =>
    rcases List.mem_cons.1 hi with rfl | hi
    · rfl
    · exact ih hi
  | case2 msg h =>
    rw [blockCommands.eq_2 msg h] at hi
    cases hi

/-- R74: MIX itself has no RDSTAT or ROTL. -/
theorem filter_mixCommands (msg : List Byte) :
    (mixCommands msg).filter (fun i => !i.isFree) = mixCommands msg := by
  refine List.filter_eq_self.2 fun i hi => ?_
  rw [mixCommands, List.mem_cons, List.mem_append, List.mem_singleton] at hi
  rcases hi with rfl | hi | rfl
  · rfl
  · rw [isFree_of_mem_blockCommands hi]
    rfl
  · rfl

/-- A digest payload is determined by its bytes. -/
theorem digestBytes_injective : Function.Injective digestBytes := by
  intro d d' h
  refine BitVec.eq_of_getLsbD_eq fun j hj => ?_
  have hm : j / 8 < 16 := by omega
  have hbyte : d.extractLsb' (8 * (j / 8)) 8 = d'.extractLsb' (8 * (j / 8)) 8 := by
    have hget := congrArg (·[j / 8]?) h
    simpa only [getElem?_digestBytes _ hm, Option.some.injEq] using hget
  have hbit := congrArg (·.getLsbD (j % 8)) hbyte
  have hindex : 8 * (j / 8) + j % 8 = j := Nat.div_add_mod j 8
  have hlow : j % 8 < 8 := Nat.mod_lt j (by decide)
  simpa [BitVec.getLsbD_extractLsb', hindex, hlow] using hbit

/-- R61: a response word is its kind and its payload. -/
theorem responseKind_append_responseData (r : ResponseWord) :
    responseKind r ++ responseData r = r :=
  ((eq_append_iff (b := 8) (a := 128) r _ _).2 ⟨rfl, rfl⟩).symm

/-- R105: the last response of a run of `MIX msg` is the DIGEST of `Mix`. -/
theorem run_mixCommands {s : State} {msg : List Byte} {rest : List HostEvent}
    (hready : s.awaitingReset = false) (hp : s.phase = .idle ∨ s.phase = .done)
    (h8 : msg.length % 8 = 0) (hle : msg.length ≤ 2 ^ 32 - 8)
    (hin : s.inbox = sent (mixCommands msg) ++ rest) :
    ∃ t r, Host.Core.run core (mixCommands msg).length s = .next t ∧
      t.outbox.getLast? = some r ∧ responseKind r = 0x02#8 ∧
      mix s.iv msg = some (digestBytes (responseData r)) := by
  obtain ⟨t, rs, hrun, -, -, -, -, -, hout, hlen, hanswers⟩ :=
    mixCommandsComputeMix s msg (mixCommands msg) rest hready hp h8 hle (filter_mixCommands msg) hin
  have hfinal : (mixCommands msg)[(mixCommands msg).length - 1]? = some .final := by
    simp [mixCommands]
  have hne : rs ≠ [] := by
    rintro rfl
    simp [mixCommands] at hlen
  have hlast : rs[(mixCommands msg).length - 1]? = some (rs.getLast hne) := by
    rw [← hlen, ← List.getLast?_eq_getElem?, List.getLast?_eq_some_getLast hne]
  obtain ⟨-, -, hdigest⟩ := hanswers _ _ _ hfinal hlast
  obtain ⟨hkind, hmix⟩ := hdigest rfl
  refine ⟨t, _, hrun, ?_, hkind, hmix⟩
  rw [hout, List.getLast?_append_of_ne_nil _ hne, List.getLast?_eq_some_getLast hne]

/-- Settles O51: kind and payload of the last response are those of the output of `Mix`. -/
theorem mixIsDeterministic : Obligations.MixIsDeterministic := by
  intro s u msg rest rest' hs hu hiv hps hpu h8 hle hins hinu
  obtain ⟨s', r, hrun, hlast, hkind, hmix⟩ := run_mixCommands hs hps h8 hle hins
  obtain ⟨u', r', hrun', hlast', hkind', hmix'⟩ := run_mixCommands hu hpu h8 hle hinu
  have hbytes : digestBytes (responseData r) = digestBytes (responseData r') :=
    Option.some.inj (hmix.symm.trans ((congrArg (mix · msg) hiv).trans hmix'))
  obtain rfl : r = r' := by
    rw [← responseKind_append_responseData r, ← responseKind_append_responseData r', hkind, hkind',
      digestBytes_injective hbytes]
  exact ⟨s', u', r, hrun, hrun', hlast, hlast', hkind⟩

/-! The digest run. -/

section
variable {i : Instr} {ws : List CommandWord} {s t : State}

theorem isResetWord_encode (hi : i ≠ .reset) : isResetWord (encode i) = false := by
  cases i with
  | reset => exact absurd rfl hi
  | start _ | absorb _ _ | final | rddig | rdstat | rotl _ _ => simp [isResetWord]

theorem digestRun_cons (hexec : exec i s = .next t) (hi : i ≠ .reset) :
    digestRun (encode i :: ws) s =
      if t.phase = .fault then .failed
      else if t.phase = .done then .succeeded (digestBytes (responseData (t.outbox.getLastD 0)))
      else digestRun ws t := by
  simp [digestRun, runWord_ok (decode_encode i), hexec, isResetWord_encode hi]

theorem digestRun_cons_fault (hexec : exec i s = .next t) (hi : i ≠ .reset)
    (ht : t.phase = .fault) : digestRun (encode i :: ws) s = .failed := by
  rw [digestRun_cons hexec hi, if_pos ht]

theorem digestRun_cons_absorbing (hexec : exec i s = .next t) (hi : i ≠ .reset)
    (ht : t.phase = .absorbing) : digestRun (encode i :: ws) s = digestRun ws t := by
  simp [digestRun_cons hexec hi, ht]

theorem digestRun_cons_done {d : BitVec 128} {before : List ResponseWord}
    (hexec : exec i s = .next t) (hi : i ≠ .reset) (ht : t.phase = .done)
    (hout : t.outbox = before ++ [responseWord .digest d]) :
    digestRun (encode i :: ws) s = .succeeded (digestBytes d) := by
  simp [digestRun_cons hexec hi, ht, hout]

end

/-- R160: from any point of a message, its remaining blocks and FINAL end in `Mix`. -/
theorem digestRun_of_blocksOwed {iv : Quad} {msg tail : List Byte} {s : State}
    (h : BlocksOwed iv msg tail s) :
    ∃ bytes, mix iv msg = some bytes ∧
      digestRun ((blockCommands tail ++ [Instr.final]).map encode) s = .succeeded bytes := by
  induction tail using blockCommands.induct generalizing s with
  | case1 b0 b1 b2 b3 b4 b5 b6 b7 rest ih =>
    obtain ⟨t, hexec, howed, -⟩ := exec_absorb_mix h
    obtain ⟨bytes, hmix, hrun⟩ := ih howed
    exact ⟨bytes, hmix, (digestRun_cons_absorbing hexec nofun howed.1).trans hrun⟩
  | case2 tail hshort =>
    obtain ⟨-, -, h8, -⟩ := id h
    have hlt := length_lt_of_no_block hshort
    obtain rfl : tail = [] := List.length_eq_zero_iff.1 (by omega)
    obtain ⟨t, d, hexec, hdone, -, hout, hmix⟩ := exec_final_mix h
    exact ⟨_, hmix, digestRun_cons_done hexec nofun hdone.1 hout⟩

/-- Settles O52. -/
theorem digestRunSucceedsWithMix : Obligations.DigestRunSucceedsWithMix := by
  intro s t msg hp h8 hle hexec
  obtain ⟨u, hu, howed, -⟩ := exec_start_mix h8 (by omega) hp
  cases hu.symm.trans hexec
  exact digestRun_of_blocksOwed howed

/-- The commands of blocks given as words, then FINAL. -/
def blocksThenFinal (blocks : List (Word × Word)) : List Instr :=
  blocks.map (fun b => .absorb b.1 b.2) ++ [.final]

/-- R132: with another number of blocks than the count, the first block too many or FINAL faults. -/
theorem digestRun_wrong_count {blocks : List (Word × Word)} {s : State} (hp : s.phase = .absorbing)
    (hcount : blocks.length ≠ s.cnt.toNat) :
    digestRun ((blocksThenFinal blocks).map encode) s = .failed := by
  induction blocks generalizing s with
  | nil =>
    have hc : s.cnt ≠ 0 := fun hc => hcount (by simp [hc])
    obtain ⟨-, hsequence, -⟩ := finalBehaviour s
    exact digestRun_cons_fault (hsequence (.inr (.inr ⟨hp, hc⟩))) nofun rfl
  | cons b blocks ih =>
    by_cases hc : s.cnt = 0
    · obtain ⟨-, hsequence, -⟩ := absorbBehaviour b.1 b.2 s
      exact digestRun_cons_fault (hsequence (.inr (.inr ⟨hp, hc⟩))) nofun rfl
    · refine (digestRun_cons_absorbing (exec_absorb_accepted b.1 b.2 hp hc) nofun hp).trans
        (ih hp ?_)
      have hpos : s.cnt.toNat ≠ 0 := fun h0 => hc (BitVec.eq_of_toNat_eq h0)
      rw [List.length_cons] at hcount
      rw [respond_cnt, toNat_ofNat_pred]
      omega

/-- Settles O53. -/
theorem wrongBlockCountFails : Obligations.WrongBlockCountFails := by
  intro s t len blocks hp h8 hexec hcount
  cases (exec_start_accepted hp h8).symm.trans hexec
  refine digestRun_wrong_count rfl ?_
  rwa [respond_cnt, ← blockCount_eq_ofNat, blockCount_toNat]

end Sys2Proof.Machine
end
